-- ==== Sys2Proof/Word.lean ====
section
/-!
DEFINITION. The word types of the block (00_scope.md R8, 30_encoding.md R45, 20_memory.md R36).
-/
namespace Sys2Proof

/-- One byte of the Frame Buffer, of a source array or of the output stream; bit `n` has weight `2^n` (R8, R36). -/
abbrev Byte := BitVec 8

/-- One command word (R45). -/
abbrev CommandWord := BitVec 64

end Sys2Proof
end

