-- ==== Sys2Proof/Config.lean ====
section
/-!
DEFINITION. The parameters of 00_scope.md R6, fixed for one machine, and the free values of the model.
-/
namespace Sys2Proof

/-- Which rows decide that a band is vertically clipped (R6, R77, 90_conflicts.md C1). -/
inductive VClipRule where
  /-- `ANY_ROW`: some row of the band's display-row range is off the panel. -/
  | anyRow
  /-- `TOP_ROW`: the band's top row is off the panel. -/
  | topRow
  deriving DecidableEq, Repr

/-- The parameters of R6 that stay fixed while the machine runs. `FB_INIT` is not among them: it is the argument of
`Machine.State.resetWith` and of the reset input, since R29 makes it a free draw. -/
structure Config where
  /-- Panel and buffer width in columns. -/
  W : Nat
  /-- Panel and buffer height in pixel rows. -/
  H : Nat
  /-- Code of the low-column command. -/
  cmdColLo : Byte
  /-- Code of the high-column command. -/
  cmdColHi : Byte
  /-- Code of the page command. -/
  cmdPage : Byte
  /-- `VCLIP_RULE`. -/
  vclip : VClipRule
  /-- `CD_CMD_LEVEL`: the level of the command/data line that means "command" (`false` is level 0). -/
  cdCmdLevel : Bool
  deriving DecidableEq, Repr

/-- `PAGES = H / 8` (R6). -/
def Config.pageCount (c : Config) : Nat := c.H / 8

/-- `BUF_LEN = W * PAGES` (R6, R15). -/
def Config.bufLen (c : Config) : Nat := c.W * c.pageCount

/-- The level of the command/data line that means "data": `1 - CD_CMD_LEVEL` (R23). -/
def Config.dataLevel (c : Config) : Bool := !c.cdCmdLevel

/-- The legal values of the parameters, the third column of R6's table. -/
abbrev Config.Legal (c : Config) : Prop :=
  (1 ≤ c.W ∧ c.W ≤ 256) ∧ (8 ≤ c.H ∧ c.H ≤ 128 ∧ c.H % 8 = 0) ∧
  c.cmdColLo &&& 0x0F#8 = 0#8 ∧ c.cmdColHi &&& 0x0F#8 = 0#8 ∧ c.cmdPage &&& 0x0F#8 = 0#8

/-- The three command codes differ, as they do at the defaults (R61): what a reader of the stream needs to tell the cursor
commands apart. -/
abbrev Config.CodesDistinct (c : Config) : Prop :=
  c.cmdColLo ≠ c.cmdColHi ∧ c.cmdColLo ≠ c.cmdPage ∧ c.cmdColHi ≠ c.cmdPage

/-- Free value: what the band register `k` holds while idle, after the `n`-th region operation (R22 "no meaning";
DESIGN CHOICE, safe, log entry 3). -/
opaque Config.idleK : Nat → BitVec 5

/-- Free value: what the column-index register `tx` holds while idle (R22; log entry 3). -/
opaque Config.idleTx : Nat → BitVec 8

/-- Free value: what the column register `col` holds while idle (R22; log entry 3). -/
opaque Config.idleCol : Nat → BitVec 8

/-- Free value: what the page register `page` holds while idle (R22; log entry 3). -/
opaque Config.idlePage : Nat → BitVec 5

/-- Free value: the column the reference observer's cursor holds once a byte was written at column 255, the last an 8-bit column can
name; the display memory after that write and the page are what it may depend on. 91_not_in_source.md states no wrap there and says to
assume none (DESIGN CHOICE, safe, log entry 22). -/
opaque Config.columnPastLast : List (Nat × Byte) → BitVec 4 → BitVec 8

end Sys2Proof
end

