-- ==== Sys2Proof/Syntax.lean ====
section
/-!
DEFINITION. The five operations of spec/opcode_table.json (30_encoding.md R52), with the operands R50 assembles.
-/
namespace Sys2Proof

/-- The three pixel colors (00_scope.md R12, 30_encoding.md R51). -/
inductive Color where
  | background
  | foreground
  | inverse
  deriving DecidableEq, Repr

/-- One constructor per row of the opcode table. The operands are the integers R50 assembles, not the fields of the word. -/
inductive Instr where
  /-- `SETPIXEL x, y, color` (R63). -/
  | setpixel (x y : Int) (color : Color)
  /-- `CLEAR` (R67). -/
  | clear
  /-- `SYNC x, y, w, h` (R90). -/
  | sync (x y : Int) (w h : Nat)
  /-- `UPDATE` (R92). -/
  | update
  /-- `DRAW x, y, w, h` (R94); its source array is presented beside the word (R27). -/
  | draw (x y : Int) (w h : Nat)
  deriving DecidableEq, Repr

end Sys2Proof
end

