-- ==== Sys2Proof/Machine/Operands.lean ====
section
/-!
DEFINITION. What the operations compute from their operands: the pixel address of SETPIXEL (10_state.md R16, 40_pixel_ops.md R63) and
the geometry of a region (41_region_sync.md R72 to R80). All arithmetic is on unbounded integers (00_scope.md R9).
-/
namespace Sys2Proof.Machine

/-- The coordinates lie on the buffer (R64). -/
abbrev OnPanel (c : Config) (x y : Int) : Prop := (0 ≤ x ∧ x < c.W) ∧ (0 ≤ y ∧ y < c.H)

/-- `W * (y div 8) + x`, the index of the byte that holds the pixel (R16). -/
def pixelIndex (c : Config) (x y : Int) : Nat := ((c.W : Int) * (y / 8) + x).toNat

/-- `1 << (y mod 8)` (R63). -/
def pixelMask (y : Int) : Byte := 1#8 <<< (y % 8).toNat

/-- The byte a color leaves where `m` masks the pixel's bit (R63). -/
def paint (color : Color) (m old : Byte) : Byte :=
  match color with
  | .foreground => old ||| m
  | .background => old &&& ~~~m
  | .inverse => old ^^^ m

/-- The operands of REGION (R71). -/
structure Region where
  /-- Panel column of the left edge. -/
  x : Int
  /-- Panel row of the top edge. -/
  y : Int
  /-- Width in columns, also the page length of the source (R80). -/
  w : Nat
  /-- Height in rows. -/
  h : Nat
  deriving DecidableEq, Repr

/-- `ceil(h / 8)` (R72). -/
def Region.bandCount (r : Region) : Nat := (r.h + 7) / 8

/-- `top = y + 8k` (R74). -/
def Region.top (r : Region) (k : Nat) : Int := r.y + 8 * (k : Int)

/-- `bottom = y + min(8k + 8, h) - 1` (R74). -/
def Region.bottom (r : Region) (k : Nat) : Int := r.y + min (8 * (k : Int) + 8) (r.h : Int) - 1

/-- `vskip(top, bottom)` under the machine's `VCLIP_RULE` (R71, R77). -/
def Region.skipped (c : Config) (r : Region) (k : Nat) : Bool :=
  match c.vclip with
  | .anyRow => decide (r.top k < 0 ∨ (c.H : Int) - 1 < r.bottom k)
  | .topRow => decide (r.top k < 0 ∨ (c.H : Int) - 1 < r.top k)

/-- Column index `tx` is on the panel, not clipped (R79). -/
def Region.visible (c : Config) (r : Region) (tx : Nat) : Bool := decide (0 ≤ r.x + (tx : Int) ∧ r.x + (tx : Int) < c.W)

/-- `off = w*k + tx` (R80). -/
def Region.offset (r : Region) (k tx : Nat) : Nat := r.w * k + tx

/-- `col = max(x, 0) mod 256`, in the 8 bits of the column register (R75). -/
def Region.startCol (r : Region) : Byte := BitVec.ofNat 8 (max r.x 0).toNat

/-- The page of the origin row, clamped to zero from below (R76). -/
def Region.startPage (r : Region) : Nat := if r.y < 0 then 0 else (r.y / 8).toNat

/-- The whole panel: what UPDATE sends (R92). -/
def Region.wholePanel (c : Config) : Region := { x := 0, y := 0, w := c.W, h := c.H }

/-- `CMD_COL_LO | col[3:0]` (R60). -/
def colLoByte (c : Config) (col : Byte) : Byte := c.cmdColLo ||| (col.extractLsb' 0 4).setWidth 8

/-- `CMD_COL_HI | col[7:4]` (R60). -/
def colHiByte (c : Config) (col : Byte) : Byte := c.cmdColHi ||| (col.extractLsb' 4 4).setWidth 8

/-- `CMD_PAGE | page[3:0]` (R60). -/
def pageByte (c : Config) (page : Nat) : Byte := c.cmdPage ||| (BitVec.ofNat 4 page).setWidth 8

end Sys2Proof.Machine
end

