-- ==== Sys2Proof/WellFormed.lean ====
section
/-!
DEFINITION. Which terms of `Instr` a command word can name: the operand ranges of 00_scope.md R7 and 30_encoding.md R50, which are
also the assembler's checks of R58.
-/
namespace Sys2Proof

/-- A coordinate fits a 16-bit two's-complement field (R7, R50). -/
abbrev CoordFits (v : Int) : Prop := -32768 ≤ v ∧ v ≤ 32767

/-- A region extent fits an 8-bit unsigned field (R7, R50). -/
abbrev ExtentFits (v : Nat) : Prop := v ≤ 255

/-- The operands fit the fields of the word. -/
def Instr.wellFormed : Instr → Bool
  | .setpixel x y _ => decide (CoordFits x) && decide (CoordFits y)
  | .clear => true
  | .sync x y w h => decide (CoordFits x) && decide (CoordFits y) && decide (ExtentFits w) && decide (ExtentFits h)
  | .update => true
  | .draw x y w h => decide (CoordFits x) && decide (CoordFits y) && decide (ExtentFits w) && decide (ExtentFits h)

/-- `Instr.wellFormed` as a proposition. -/
abbrev Instr.WellFormed (i : Instr) : Prop := i.wellFormed = true

end Sys2Proof
end

