-- ==== Sys2Proof/Decode.lean ====
section
/-!
DEFINITION. Decoding of command words (30_encoding.md R45-R57), and after it the encoder, the assembler's check and the written form
of an operation (R58).
-/
namespace Sys2Proof

/-- Why a command word or a port read is refused (R57, 60_exceptions.md R103, R104). -/
inductive RefusalReason where
  /-- The opcode field is 0x0 or 0x6..0xF (R53). -/
  | reservedOpcode
  /-- A reserved bit is not zero (R54). -/
  | reservedBits
  /-- `COLOR = 3` in a SETPIXEL word (R55). -/
  | reservedColor
  /-- A port read out of range (R104); no command word gives it. -/
  | portRange
  deriving DecidableEq, Repr

/-- The opcode field `OP`, bits 63:60 (R46). -/
def opField (w : CommandWord) : BitVec 4 := w.extractLsb' 60 4

/-- `x = sext_16(word[15:0])` (R50). -/
def xField (w : CommandWord) : Int := (w.extractLsb' 0 16).toInt

/-- `y = sext_16(word[31:16])` (R50). -/
def yField (w : CommandWord) : Int := (w.extractLsb' 16 16).toInt

/-- `w = zext(word[39:32])` (R50). -/
def rwField (w : CommandWord) : Nat := (w.extractLsb' 32 8).toNat

/-- `h = zext(word[47:40])` (R50). -/
def rhField (w : CommandWord) : Nat := (w.extractLsb' 40 8).toNat

/-- The color of a `COLOR` code, none for the reserved code 3 (R51). -/
def colorOfCode (code : BitVec 2) : Option Color :=
  if code = 0#2 then some .background
  else if code = 1#2 then some .foreground
  else if code = 2#2 then some .inverse
  else none

/-- The code of a color (R51). -/
def colorCode : Color → BitVec 2
  | .background => 0#2
  | .foreground => 1#2
  | .inverse => 2#2

/-- A format-P word after its opcode: reserved bits 59:34, then the color (R47, R54, R55). -/
def decodePixel (w : CommandWord) : Except RefusalReason Instr :=
  if w.extractLsb' 34 26 ≠ 0#26 then .error .reservedBits
  else match colorOfCode (w.extractLsb' 32 2) with
    | none => .error .reservedColor
    | some c => .ok (.setpixel (xField w) (yField w) c)

/-- A format-R word after its opcode: reserved bits 59:48 (R48, R54). -/
def decodeRegion (mk : Int → Int → Nat → Nat → Instr) (w : CommandWord) : Except RefusalReason Instr :=
  if w.extractLsb' 48 12 ≠ 0#12 then .error .reservedBits
  else .ok (mk (xField w) (yField w) (rwField w) (rhField w))

/-- A format-N word after its opcode: reserved bits 59:0 (R49, R54). -/
def decodePlain (i : Instr) (w : CommandWord) : Except RefusalReason Instr :=
  if w.extractLsb' 0 60 ≠ 0#60 then .error .reservedBits else .ok i

/-- `decode(word)` of R57, total on 64-bit words: opcode first, then reserved bits, then color. -/
def decode (w : CommandWord) : Except RefusalReason Instr :=
  if opField w = 1#4 then decodePixel w
  else if opField w = 2#4 then decodePlain .clear w
  else if opField w = 3#4 then decodeRegion .sync w
  else if opField w = 4#4 then decodePlain .update w
  else if opField w = 5#4 then decodeRegion .draw w
  else .error .reservedOpcode

/-- A field of a word at its lowest bit, every other bit zero (R8). -/
def place {n : Nat} (v : BitVec n) (lo : Nat) : CommandWord := v.setWidth 64 <<< lo

/-- A format-R word of the given opcode (R48). -/
def encodeRegion (op : BitVec 4) (x y : Int) (w h : Nat) : CommandWord :=
  place op 60 ||| place (BitVec.ofNat 8 h) 40 ||| place (BitVec.ofNat 8 w) 32 ||| place (BitVec.ofInt 16 y) 16 |||
    place (BitVec.ofInt 16 x) 0

/-- The word of an operation, from the format tables R47 to R49. It names the operation only where `Instr.WellFormed` holds. -/
def encode : Instr → CommandWord
  | .setpixel x y c => place 1#4 60 ||| place (colorCode c) 32 ||| place (BitVec.ofInt 16 y) 16 ||| place (BitVec.ofInt 16 x) 0
  | .clear => place 2#4 60
  | .sync x y w h => encodeRegion 3#4 x y w h
  | .update => place 4#4 60
  | .draw x y w h => encodeRegion 5#4 x y w h

/-- The assembler: the word, refused where an operand does not fit its field (R58). -/
def assemble (i : Instr) : Option CommandWord :=
  if i.wellFormed then some (encode i) else none

/-- A color as R58 writes it. -/
def colorName : Color → String
  | .background => "BG"
  | .foreground => "FG"
  | .inverse => "INV"

/-- The operands of a region operation as R58 writes them. -/
def regionOperands (x y : Int) (w h : Nat) : String :=
  toString x ++ ", " ++ toString y ++ ", " ++ toString w ++ ", " ++ toString h

/-- An operation as R58 writes it; `source` is the name of the array the host presents with a DRAW. -/
def asmText (source : String) : Instr → String
  | .setpixel x y c => "SETPIXEL " ++ toString x ++ ", " ++ toString y ++ ", " ++ colorName c
  | .clear => "CLEAR"
  | .sync x y w h => "SYNC " ++ regionOperands x y w h
  | .update => "UPDATE"
  | .draw x y w h => "DRAW " ++ regionOperands x y w h ++ ", @" ++ source

/-- The instruction the decoder reads from a word whose low `nbits` bits are those of `w` and whose other bits are zero, bit 0 being
the least significant bit of the word. The command word is presented whole (R45), so there is no byte order to apply (R35). -/
def decodeTableWord (nbits w : Nat) : Option Instr :=
  match decode (BitVec.ofNat 64 (w % 2 ^ nbits)) with
  | .ok i => some i
  | .error _ => none

end Sys2Proof
end

