-- ==== Sys2Proof/Machine/Memory.lean ====
section
/-!
DEFINITION. Byte memory in one canonical form, used for the Frame Buffer (10_state.md R15) and for the reference observer's display
memory (41_region_sync.md R96): cells in strictly rising address order, none holding what an unlisted address reads as.
-/
namespace Sys2Proof.Machine

/-- A byte memory: the listed cells. -/
abbrev Memory := List Host.Cell

/-- What an unlisted address reads as. DESIGN CHOICE (unsafe at `State.reset`, log entry 1): R29 leaves the reset content open. -/
def Memory.unlisted : Byte := 0x00#8

/-- Read one byte. -/
def Memory.read : Memory → Nat → Byte
  | [], _ => Memory.unlisted
  | (b, u) :: m, a => if a = b then u else Memory.read m a

/-- Put a cell in before the first cell of a higher address. -/
def Memory.insert (a : Nat) (v : Byte) : Memory → Memory
  | [] => [(a, v)]
  | (b, u) :: m => if a < b then (a, v) :: (b, u) :: m else (b, u) :: Memory.insert a v m

/-- Take the cells of one address out. -/
def Memory.erase (m : Memory) (a : Nat) : Memory := m.filter (fun c => c.1 != a)

/-- Write one byte, keeping the canonical form. -/
def Memory.write (m : Memory) (a : Nat) (v : Byte) : Memory :=
  if v = Memory.unlisted then m.erase a else Memory.insert a v (m.erase a)

/-- Zero every byte below an address: the effect of the write loop of 40_pixel_ops.md R67. -/
def Memory.zeroBelow (m : Memory) (n : Nat) : Memory := m.filter (fun c => n ≤ c.1)

/-- The memory that holds the first `room` bytes of a list from an address on, zero beyond the list's end. -/
def Memory.ofBytes (a : Nat) : Nat → List Byte → Memory
  | 0, _ => []
  | _ + 1, [] => []
  | room + 1, v :: vs =>
    if v = Memory.unlisted then Memory.ofBytes (a + 1) room vs else (a, v) :: Memory.ofBytes (a + 1) room vs

/-- The cells stand in strictly rising address order, all at or above `lo`, and none holds the unlisted value. -/
def Memory.wfFrom (lo : Nat) : Memory → Bool
  | [] => true
  | (a, v) :: m => decide (lo ≤ a) && decide (v ≠ Memory.unlisted) && Memory.wfFrom (a + 1) m

/-- The canonical form. -/
def Memory.wf (m : Memory) : Bool := Memory.wfFrom 0 m

/-- Every listed address is below `n`. -/
def Memory.within (m : Memory) (n : Nat) : Bool := m.all (fun c => decide (c.1 < n))

end Sys2Proof.Machine
end

