-- ==== Sys2Proof/Machine/Params.lean ====
section
/-!
DEFINITION. The parameter values this hardware takes when nothing else is said: the default column of 00_scope.md R6.
-/
namespace Sys2Proof.Machine

/-- The defaults of R6. The three command codes and `CD_CMD_LEVEL` are the spec's general-knowledge defaults (D8, D13), so a claim
that rests on them is unsafe (log entry 4); every statement but those about `State.reset` is for all legal parameters. -/
def defaultConfig : Config :=
  { W := 128, H := 64, cmdColLo := 0x00#8, cmdColHi := 0x10#8, cmdPage := 0xB0#8, vclip := .anyRow, cdCmdLevel := false }

end Sys2Proof.Machine
end

