-- ==== Sys2Proof/Machine/State.lean ====
section
/-!
DEFINITION. The state of the block (10_state.md), what the outside world presents to it, its faults and refusals, and its reset
(70_reset_and_hazards.md R115).
-/
namespace Sys2Proof.Machine

/-- `IDLE` or `BUSY` (R22, R26). -/
inductive Phase where
  | idle
  | busy
  deriving DecidableEq, Repr

/-- An output event (R24). -/
inductive Event where
  /-- Drive `CS` low. -/
  | csAssert
  /-- Drive `CS` high. -/
  | csDeassert
  /-- Transmit a byte in command mode. -/
  | cmd (b : Byte)
  /-- Transmit a byte in data mode. -/
  | data (b : Byte)
  deriving DecidableEq, Repr

/-- The hidden sequencer registers (R22), at the widths of its table. -/
structure Sequencer where
  /-- Current band index. -/
  k : BitVec 5
  /-- Current column index within the region. -/
  tx : BitVec 8
  /-- Column value sent by the column cursor commands. -/
  col : BitVec 8
  /-- Page value sent by the next page command. -/
  page : BitVec 5
  deriving DecidableEq, Repr

/-- A fault mark (R101): there is no other fault kind. -/
inductive FaultMark where
  /-- A region operation read its source at `off`, at or past the source's end. -/
  | sourceOverrun (off : Nat)
  deriving DecidableEq, Repr

/-- What the outside world presents to the block, one thing at a time (R5; log entry 6). -/
inductive Input where
  /-- A command word on the command port, with the array on the source read port; only a DRAW reads the array (R26, R27). -/
  | command (word : CommandWord) (src : List Byte)
  /-- A dimension-register read (R18, R62). -/
  | readDim (n : Nat)
  /-- A Frame Buffer read (R28, R62). -/
  | readBuf (i : Nat)
  /-- Reset, or the return of power (R115, R116), with the Frame Buffer content `FB_INIT` it leaves (zero beyond the list). -/
  | reset (fbInit : List Byte)
  deriving DecidableEq, Repr

/-- What a read port answers; a refused read answers nothing (R104; log entry 13). -/
inductive Reply where
  /-- The number a dimension register holds. -/
  | dim (n : Nat) (value : Nat)
  /-- The byte `FB[i]`. -/
  | byte (i : Nat) (value : Byte)
  deriving DecidableEq, Repr

/-- The whole state. INVENTORY.md lists each field with its rule and reset value. -/
structure State where
  /-- The parameters of R6, fixed for this machine: no step changes them. -/
  cfg : Config
  /-- The Frame Buffer (R15). -/
  fb : Memory
  /-- `phase` (R22). -/
  phase : Phase
  /-- `k`, `tx`, `col`, `page` (R22). -/
  seq : Sequencer
  /-- `cs_asserted`: `CS` is low (R23). -/
  csAsserted : Bool
  /-- `cd_level` (R23). -/
  cdLevel : Bool
  /-- `OUT` (R24), oldest event first. -/
  out : List Event
  /-- `SRC`, the array on the source read port (R27, R33). -/
  src : List Byte
  /-- The sticky refusal marks, oldest first (60_exceptions.md R103, R104). -/
  refusals : List RefusalReason
  /-- The sticky fault marks, oldest first (60_exceptions.md R101). -/
  faults : List FaultMark
  /-- The model's own: what the outside world presents and the block has not yet taken, oldest first (log entry 6). -/
  inputs : List Input
  /-- The model's own: what the read ports have answered, oldest first (log entry 13). -/
  replies : List Reply
  /-- The model's own: how many free values have been drawn (log entry 3). -/
  draws : Nat
  deriving DecidableEq, Repr

/-- `WIDTH`, dimension register 0, 9 bits, hardwired (R18). -/
def State.width (s : State) : BitVec 9 := BitVec.ofNat 9 s.cfg.W

/-- `HEIGHT`, dimension register 1, 8 bits, hardwired (R18). -/
def State.height (s : State) : BitVec 8 := BitVec.ofNat 8 s.cfg.H

/-- `PAGES`, dimension register 2, 5 bits, hardwired (R18). -/
def State.pages (s : State) : BitVec 5 := BitVec.ofNat 5 s.cfg.pageCount

/-- `BUF_LEN`, dimension register 3, 13 bits, hardwired (R18). -/
def State.bufLenReg (s : State) : BitVec 13 := BitVec.ofNat 13 s.cfg.bufLen

/-- Why the machine stops. -/
inductive Fault where
  /-- Raised by SYNC, UPDATE and DRAW when REGION reads the source at `off >= L` (41_region_sync.md R81, 60_exceptions.md R101). It
  carries `off` and the state the fault leaves: the events so far in `OUT`, `CS` still asserted, the block still busy, `FB`
  unchanged. Safe: the spec gives no behaviour past it (D14). -/
  | sourceOverrun (off : Nat) (left : State)
  deriving DecidableEq, Repr

/-- Why an instruction has no meaning. -/
inductive Refusal where
  /-- Raised by `exec` for an instruction that has no meaning yet; no arm raises it in this model. Safe: nothing is proved of it. -/
  | notModelled (mnemonic : String)
  deriving DecidableEq, Repr

/-- The sequencer registers before any operation has set them: R29 gives them no meaning (DESIGN CHOICE, unsafe, log entry 2). -/
def Sequencer.atReset : Sequencer := { k := 0, tx := 0, col := 0, page := 0 }

/-- The state after reset (R29, R115) of a machine with parameters `c` whose Frame Buffer comes up holding `fbInit`, the free
input `FB_INIT` of R29: its first `BUF_LEN` bytes, zero beyond the list's end. -/
def State.resetWith (c : Config) (fbInit : List Byte) : State :=
  { cfg := c, fb := Memory.ofBytes 0 c.bufLen fbInit, phase := .idle, seq := .atReset, csAsserted := false,
    cdLevel := c.dataLevel, out := [], src := [], refusals := [], faults := [], inputs := [], replies := [], draws := 0 }

/-- The machine right after reset: the default parameters of R6 and, of the contents R29 leaves open, the one that lists nothing
(DESIGN CHOICE, unsafe, log entry 1). Nothing is presented yet: the block waits, idle, for the first command word (R115). -/
def State.reset : State := State.resetWith defaultConfig []

end Sys2Proof.Machine
end

