-- ==== Sys2Proof/Machine/Ops.lean ====
section
/-!
DEFINITION. The shared operations over the state: sending events and driving the two lines (10_state.md R23, R24), taking a command
(R26, R27), ending one, and the two ways a word can go wrong, the refusal mark (60_exceptions.md R103) and the fault of a source
overrun (41_region_sync.md R81). The block takes no exception and returns from none (R100, R107).
-/
namespace Sys2Proof.Machine

/-- `cs_asserted` after an event (R24). -/
def Event.csAfter : Event → Bool → Bool
  | .csAssert, _ => true
  | .csDeassert, _ => false
  | .cmd _, l => l
  | .data _, l => l

/-- `cd_level` after an event: a command byte drives the line to the command level and back to the data level (R24). -/
def Event.cdAfter (c : Config) : Event → Bool → Bool
  | .csAssert, l => l
  | .csDeassert, l => l
  | .cmd _, _ => c.dataLevel
  | .data _, l => l

/-- `cs_asserted` after a run of events. -/
def csAfter (evs : List Event) (l : Bool) : Bool := evs.foldl (fun l e => e.csAfter l) l

/-- `cd_level` after a run of events. -/
def cdAfter (c : Config) (evs : List Event) (l : Bool) : Bool := evs.foldl (fun l e => e.cdAfter c l) l

/-- Hand events to the transport sink, in order; it accepts each at once (R5, R24, R42). -/
def State.emit (s : State) (evs : List Event) : State :=
  { s with out := s.out ++ evs, csAsserted := csAfter evs s.csAsserted, cdLevel := cdAfter s.cfg evs s.cdLevel }

/-- Accept a command word: it leaves the port, its source array stands on the source read port, and the block is busy (R26, R27). -/
def State.accept (s : State) (src : List Byte) (rest : List Input) : State :=
  { s with inputs := rest, src := src, phase := .busy }

/-- The last write or event of an operation is done: the block is idle (R26). -/
def State.complete (s : State) : State := { s with phase := .idle }

/-- The free values the sequencer registers hold while idle, after the `n`-th region operation (R22; log entry 3). -/
def Sequencer.noMeaning (n : Nat) : Sequencer :=
  { k := Config.idleK n, tx := Config.idleTx n, col := Config.idleCol n, page := Config.idlePage n }

/-- The end of a region operation that sent `evs`: no sequencer value survives it (R22), and the block is idle (R26). -/
def State.endRegion (s : State) (evs : List Event) : State :=
  { s.emit evs with phase := .idle, seq := .noMeaning s.draws, draws := s.draws + 1 }

/-- What a source overrun leaves (R81, R101): the events so far, the sequencer where it stopped, the mark, and a block that stays
busy because the operation does not complete (R26, R107; log entry 10). -/
def State.overrun (s : State) (evs : List Event) (seq : Sequencer) (off : Nat) : State :=
  { s.emit evs with phase := .busy, seq := seq, faults := s.faults ++ [.sourceOverrun off] }

/-- Refuse the word or the port read at the head of the inputs: only the sticky mark is recorded (R103, R104). -/
def State.refuse (s : State) (reason : RefusalReason) (rest : List Input) : State :=
  { s with inputs := rest, refusals := s.refusals ++ [reason] }

/-- Answer a port read (R18, R28). -/
def State.answer (s : State) (reply : Reply) (rest : List Input) : State :=
  { s with inputs := rest, replies := s.replies ++ [reply] }

/-- The number dimension register `n` holds, none for a number other than 0..3 (R18, R104). -/
def State.dimension (s : State) (n : Nat) : Option Nat :=
  match n with
  | 0 => some s.width.toNat
  | 1 => some s.height.toNat
  | 2 => some s.pages.toNat
  | 3 => some s.bufLenReg.toNat
  | _ => none

/-- The source of SYNC and UPDATE: `FB`, with `L = BUF_LEN` (20_memory.md R34). -/
def State.fbSource (s : State) (off : Nat) : Option Byte := if off < s.cfg.bufLen then some (s.fb.read off) else none

/-- The source of DRAW: `SRC`, with `L = SRC_LEN` (20_memory.md R33). -/
def State.srcSource (s : State) (off : Nat) : Option Byte := s.src[off]?

end Sys2Proof.Machine
end

