-- ==== Sys2Proof/Machine/Pixel.lean ====
section
/-!
DEFINITION. The pixel operations SETPIXEL and CLEAR (40_pixel_ops.md). Neither sends an event or moves a line (R68).
-/
namespace Sys2Proof.Machine

/-- Paint one pixel of the Frame Buffer, one byte read, changed and written; nothing for a coordinate off the buffer (R63, R64). -/
def State.paintPixel (s : State) (x y : Int) (color : Color) : State :=
  if OnPanel s.cfg x y then
    let i := pixelIndex s.cfg x y
    { s with fb := s.fb.write i (paint color (pixelMask y) (s.fb.read i)) }
  else s

/-- SETPIXEL (R63, R64). -/
def execSetpixel (x y : Int) (color : Color) (s : State) : Host.Outcome State Fault Refusal :=
  .next (s.paintPixel x y color).complete

/-- CLEAR: every byte of the Frame Buffer is zero (R67). -/
def execClear (s : State) : Host.Outcome State Fault Refusal :=
  .next { s with fb := s.fb.zeroBelow s.cfg.bufLen }.complete

end Sys2Proof.Machine
end

