-- ==== Sys2Proof/Machine/Region.lean ====
section
/-!
DEFINITION. REGION, the one algorithm behind SYNC, UPDATE and DRAW (41_region_sync.md R71), in the order of its pseudocode.
-/
namespace Sys2Proof.Machine

/-- Where a region operation ran past its source (R81). -/
structure Overrun where
  /-- The offset read. -/
  off : Nat
  /-- The band index. -/
  k : Nat
  /-- The column index. -/
  tx : Nat
  /-- The page of the band. -/
  page : Nat
  deriving DecidableEq, Repr

/-- What REGION or a part of it did: the events it sent and, where it ran past its source, where. -/
structure RegionRun where
  events : List Event
  stop : Option Overrun
  deriving DecidableEq, Repr

/-- The three cursor commands of a band (R78). -/
def cursor (c : Config) (col : Byte) (page : Nat) : List Event :=
  [.cmd (colLoByte c col), .cmd (colHiByte c col), .cmd (pageByte c page)]

/-- The column loop of band `k` (R79, R80, R81) over the column indexes still to come; `source off` is the byte at `off`, none at or
past the source's length. -/
def columnRun (c : Config) (r : Region) (source : Nat → Option Byte) (k page : Nat) : List Nat → RegionRun
  | [] => { events := [], stop := none }
  | tx :: txs =>
    if r.visible c tx then
      match source (r.offset k tx) with
      | none => { events := [], stop := some { off := r.offset k tx, k := k, tx := tx, page := page } }
      | some b =>
        let later := columnRun c r source k page txs
        { events := .data b :: later.events, stop := later.stop }
    else columnRun c r source k page txs

/-- The band loop (R72, R77, R78, R82) over the band indexes still to come, `page` being the page register. -/
def bandRun (c : Config) (r : Region) (source : Nat → Option Byte) : List Nat → Nat → RegionRun
  | [], _ => { events := [], stop := none }
  | k :: ks, page =>
    if r.skipped c k then bandRun c r source ks page
    else
      let band := columnRun c r source k page (List.range r.w)
      match band.stop with
      | some o => { events := cursor c r.startCol page ++ band.events, stop := some o }
      | none =>
        let later := bandRun c r source ks (page + 1)
        { events := cursor c r.startCol page ++ band.events ++ later.events, stop := later.stop }

/-- REGION as one burst (R71, R73). -/
def regionRun (c : Config) (r : Region) (source : Nat → Option Byte) : RegionRun :=
  let bands := bandRun c r source (List.range r.bandCount) r.startPage
  match bands.stop with
  | some o => { events := .csAssert :: bands.events, stop := some o }
  | none => { events := .csAssert :: bands.events ++ [.csDeassert], stop := none }

/-- The sequencer registers where a region operation stopped, at the widths of R22 (log entry 16). -/
def Overrun.sequencer (o : Overrun) (r : Region) : Sequencer :=
  { k := BitVec.ofNat 5 o.k, tx := BitVec.ofNat 8 o.tx, col := r.startCol, page := BitVec.ofNat 5 o.page }

/-- A region operation on the state: it sends REGION's events and ends, or stops in the fault of R81. -/
def State.runRegion (s : State) (r : Region) (source : Nat → Option Byte) : Host.Outcome State Fault Refusal :=
  let run := regionRun s.cfg r source
  match run.stop with
  | none => .next (s.endRegion run.events)
  | some o => .fault (.sourceOverrun o.off (s.overrun run.events (o.sequencer r) o.off))

end Sys2Proof.Machine
end

