-- ==== Sys2Proof/Machine/Sync.lean ====
section
/-!
DEFINITION. The region operations SYNC, UPDATE and DRAW (41_region_sync.md section 4), each REGION over its own source.
-/
namespace Sys2Proof.Machine

/-- SYNC: `REGION(x, y, w, h, FB, BUF_LEN)` (R90); the page length of `FB` is `w` (R91). -/
def execSync (x y : Int) (w h : Nat) (s : State) : Host.Outcome State Fault Refusal :=
  s.runRegion { x := x, y := y, w := w, h := h } s.fbSource

/-- UPDATE: `REGION(0, 0, W, H, FB, BUF_LEN)` (R92). -/
def execUpdate (s : State) : Host.Outcome State Fault Refusal :=
  s.runRegion (Region.wholePanel s.cfg) s.fbSource

/-- DRAW: `REGION(x, y, w, h, SRC, SRC_LEN)` (R94). -/
def execDraw (x y : Int) (w h : Nat) (s : State) : Host.Outcome State Fault Refusal :=
  s.runRegion { x := x, y := y, w := w, h := h } s.srcSource

end Sys2Proof.Machine
end

