-- ==== Sys2Proof/Machine/Dispatch.lean ====
section
/-!
DEFINITION. One arm per operation of the opcode table (30_encoding.md R52).
-/
namespace Sys2Proof.Machine

def exec (i : Instr) (s : State) : Host.Outcome State Fault Refusal :=
  match i with
  | .setpixel x y color => Sys2Proof.Machine.execSetpixel x y color s
  | .clear => Sys2Proof.Machine.execClear s
  | .sync x y w h => Sys2Proof.Machine.execSync x y w h s
  | .update => Sys2Proof.Machine.execUpdate s
  | .draw x y w h => Sys2Proof.Machine.execDraw x y w h s

end Sys2Proof.Machine
end

