-- ==== Sys2Proof/Machine/Ports.lean ====
section
/-!
DEFINITION. What the block does with each thing presented to it: a command word (10_state.md R26), a read of one of the two read ports
(R18, R28, 60_exceptions.md R104), a reset (70_reset_and_hazards.md R115, R116); and placing a word on the command port.
-/
namespace Sys2Proof.Machine

/-- The dimension read port, open in every phase (R18; log entry 20); another register number is refused (R104). -/
def State.serveDim (s : State) (n : Nat) (rest : List Input) : State :=
  match s.dimension n with
  | some v => s.answer (.dim n v) rest
  | none => s.refuse .portRange rest

/-- The buffer read port (R28); an index at or past `BUF_LEN` is refused (R104). -/
def State.serveBuf (s : State) (i : Nat) (rest : List Input) : State :=
  if i < s.cfg.bufLen then s.answer (.byte i (s.fb.read i)) rest else s.refuse .portRange rest

/-- Reset while running, or power loss and its return (R115, R116): everything the block holds takes its reset value, with the
Frame Buffer content the input carries. The marks are sticky and the replies are the host's, so both stay (log entry 11). -/
def State.serveReset (s : State) (fbInit : List Byte) (rest : List Input) : State :=
  { State.resetWith s.cfg fbInit with
    inputs := rest, replies := s.replies, refusals := s.refusals, faults := s.faults, draws := s.draws }

/-- Run a command word presented to an idle block: the whole operation, or the refusal mark (R14, R57, R103; log entry 9). -/
def State.runWord (s : State) (word : CommandWord) (src : List Byte) (rest : List Input) :
    Host.Outcome State Fault Refusal :=
  match decode word with
  | .ok i => exec i (s.accept src rest)
  | .error reason => .next (s.refuse reason rest)

/-- Take the oldest input. With nothing presented the block waits (R115); a word or a buffer read presented while it is busy is held,
not taken (R26, R28, R120; log entries 7 and 8); a dimension read and a reset that are the oldest input are taken in every phase (R18,
R115; log entry 20). The spec does not say whether a reset, or a dimension read, presented behind a word or buffer read that a busy block
holds takes effect: here it does not, since only the oldest input is ever taken (DESIGN CHOICE, unsafe, log entry 24). -/
def State.takeInput (s : State) : Host.Outcome State Fault Refusal :=
  match s.inputs with
  | [] => .next s
  | .command word src :: rest =>
    match s.phase with
    | .idle => s.runWord word src rest
    | .busy => .next s
  | .readDim n :: rest => .next (s.serveDim n rest)
  | .readBuf i :: rest =>
    match s.phase with
    | .idle => .next (s.serveBuf i rest)
    | .busy => .next s
  | .reset fbInit :: rest => .next (s.serveReset fbInit rest)

/-- Present a command word, with no bytes on the source read port, as the next input, to a block that is idle and so will accept it
(R26; log entry 17). -/
def State.present (s : State) (word : CommandWord) : State :=
  { s with inputs := .command word [] :: s.inputs, phase := .idle }

end Sys2Proof.Machine
end

