-- ==== Sys2Proof/Machine/Step.lean ====
section
/-!
DEFINITION. One step, and the placing of a word for the next step to run.
-/
namespace Sys2Proof.Machine

/-- One step: the block takes the oldest thing presented to it, and a command word is executed whole (00_scope.md R14, 10_state.md
R20, R26). -/
def step (s : State) : Host.Outcome State Fault Refusal := s.takeInput

/-- The state with a word, numbered as the opcode table numbers it, presented as the next command. The block stores no program
(R20): placing a word stands for the host presenting it on the command port (log entry 6). -/
def State.withFetchWord (s : State) (nbits w : Nat) : State := s.present (BitVec.ofNat 64 (w % 2 ^ nbits))

end Sys2Proof.Machine
end

