-- ==== Sys2Proof/Machine/Observer.lean ====
section
/-!
DEFINITION. The reference observer of the panel (41_region_sync.md section 5, informative): what the output stream means to a
page-addressed controller. It is no part of the block, and the machine never reads it.
-/
namespace Sys2Proof.Machine

/-- The observer: its display memory, `DRAM[p][c]` at address `W*p + c` (log entry 18), and its cursor (R96). -/
structure Observer where
  /-- `DRAM`. -/
  dram : Memory
  /-- The cursor's column. -/
  cc : BitVec 8
  /-- The cursor's page. -/
  cp : BitVec 4
  deriving DecidableEq, Repr

/-- `DRAM[p][c]` (R96). -/
def Observer.pixelByte (o : Observer) (c : Config) (p col : Nat) : Byte := o.dram.read (c.W * p + col)

/-- A command byte moves the cursor (R96); a byte of no cursor command is refused (log entry 18). R96 does not say which clause
applies where two of the three codes are equal, as R6 permits (R61 has them differ at the defaults only): that the first match in the
order low column, high column, page applies alone is the model's choice (DESIGN CHOICE, unsafe, log entry 23). -/
def Observer.command (o : Observer) (c : Config) (b : Byte) : Option Observer :=
  if b &&& 0xF0#8 = c.cmdColLo then some { o with cc := o.cc.extractLsb' 4 4 ++ b.extractLsb' 0 4 }
  else if b &&& 0xF0#8 = c.cmdColHi then some { o with cc := b.extractLsb' 0 4 ++ o.cc.extractLsb' 0 4 }
  else if b &&& 0xF0#8 = c.cmdPage then some { o with cp := b.extractLsb' 0 4 }
  else none

/-- The column after a data byte: `cc + 1` (R96). Past column 255, which is on the panel only where `W = 256`, it is a free value: the
spec states no wrap at the last column (91_not_in_source.md; DESIGN CHOICE, safe, log entry 22). -/
def Observer.nextColumn (o : Observer) : BitVec 8 :=
  if o.cc = 255#8 then Config.columnPastLast o.dram o.cp else o.cc + 1

/-- The display memory with a byte written at the cursor: `DRAM[cp][cc] <- b` (R96). -/
def Observer.store (o : Observer) (c : Config) (b : Byte) : Observer :=
  { o with dram := o.dram.write (c.W * o.cp.toNat + o.cc.toNat) b }

/-- A data byte is written at the cursor and advances its column; one outside the panel has no meaning and is refused (R96, U17). -/
def Observer.dataByte (o : Observer) (c : Config) (b : Byte) : Option Observer :=
  if o.cc.toNat < c.W ∧ o.cp.toNat < c.pageCount then
    some { o.store c b with cc := (o.store c b).nextColumn }
  else none

/-- What the observer makes of one event (R96). -/
def Observer.see (c : Config) (o : Observer) : Event → Option Observer
  | .csAssert => some o
  | .csDeassert => some o
  | .cmd b => o.command c b
  | .data b => o.dataByte c b

/-- What the observer makes of a stream of events, in order. -/
def Observer.watch (c : Config) : Observer → List Event → Option Observer
  | o, [] => some o
  | o, e :: es =>
    match o.see c e with
    | none => none
    | some o' => Observer.watch c o' es

end Sys2Proof.Machine
end

