-- ==== Sys2Proof/Safety.lean ====
section
/-!
DEFINITION. What claims about the block are stated in: the invariants its steps keep, what a run without error is, and the framing of
the output stream.
-/
namespace Sys2Proof.Machine

/-- While the block is idle `CS` is deasserted and `CD` is at the data level (10_state.md R23). -/
def State.LinesAtRest (s : State) : Prop := s.phase = .idle → s.csAsserted = false ∧ s.cdLevel = s.cfg.dataLevel

/-- The Frame Buffer is in canonical form and has no byte outside `0 .. BUF_LEN-1` (R15). -/
def State.BufferWf (s : State) : Prop := s.fb.wf = true ∧ s.fb.within s.cfg.bufLen = true

/-- The invariant every step keeps: legal parameters (R6), a well-formed Frame Buffer (R15), lines at rest while idle (R23). -/
def State.Inv (s : State) : Prop := s.cfg.Legal ∧ s.BufferWf ∧ s.LinesAtRest

/-- A run that came to `s` met no refusal and no fault (60_exceptions.md R103, R107). -/
def State.Clean (s : State) : Prop := s.refusals = [] ∧ s.faults = []

/-- `s` is final: everything presented was taken, the block is idle and no fault is marked (R101, U2 "sticky, never final"). -/
def State.Final (s : State) : Prop := s.inputs = [] ∧ s.phase = .idle ∧ s.faults = []

/-- The bit of pixel `(x, y)` in the Frame Buffer (R16). -/
def State.pixel (s : State) (x y : Int) : Bool :=
  (s.fb.read (s.cfg.W * (y / 8).toNat + x.toNat)).getLsbD (y % 8).toNat

/-- The event moves the chip-select line. -/
def Event.framing : Event → Bool
  | .csAssert => true
  | .csDeassert => true
  | .cmd _ => false
  | .data _ => false

/-- Where a stream stands in the framing of R25 and R73. -/
inductive Framing where
  /-- Outside any burst. -/
  | between
  /-- In a burst, with `n < 3` commands of a cursor sent since the burst began or the last band ended. -/
  | cursor (n : Nat)
  /-- In a burst, with the cursor of the current band sent whole: data may follow. -/
  | ready
  deriving DecidableEq, Repr

/-- The framing rule, event by event: commands and data only inside a burst, data only after the three cursor commands of its band,
a burst ended only between bands (R25, R73, R78). -/
def Framing.next : Framing → Event → Option Framing
  | .between, .csAssert => some (.cursor 0)
  | .cursor 0, .csDeassert => some .between
  | .ready, .csDeassert => some .between
  | .cursor 0, .cmd _ => some (.cursor 1)
  | .cursor 1, .cmd _ => some (.cursor 2)
  | .cursor 2, .cmd _ => some .ready
  | .ready, .cmd _ => some (.cursor 1)
  | .ready, .data _ => some .ready
  | _, _ => none

/-- Where a stream stands after its events, none where it broke the rule. -/
def Framing.after : Framing → List Event → Option Framing
  | f, [] => some f
  | f, e :: es =>
    match f.next e with
    | none => none
    | some f' => f'.after es

/-- While the block is idle, `OUT` is a sequence of whole bursts that keep the framing rule (R25, R73). -/
def State.WholeBursts (s : State) : Prop := s.phase = .idle → Framing.after .between s.out = some .between

/-! The closed form of a region's stream, in the terms of the facts R83 and R84. -/

/-- `max(0, -x)`, the first column index that can be on the panel (R84). -/
def Region.firstColumn (r : Region) : Nat := (max 0 (-r.x)).toNat

/-- `n = max(0, min(w, W - x) - max(0, -x))`, how many columns of a band are on the panel (R84). -/
def Region.columnCount (c : Config) (r : Region) : Nat := (min (r.w : Int) (c.W - r.x) - max 0 (-r.x)).toNat

/-- `(y + 8k) div 8`, the page that holds the band's top row (R83). -/
def Region.bandPage (r : Region) (k : Nat) : Nat := ((r.y + 8 * (k : Int)) / 8).toNat

/-- The bands that are not skipped, in order (R72, R77). -/
def Region.shownBands (c : Config) (r : Region) : List Nat := (List.range r.bandCount).filter fun k => !r.skipped c k

/-- What a band that is not skipped sends: its cursor, then the bytes of its columns on the panel (R78, R83, R84). -/
def Region.bandStream (c : Config) (r : Region) (source : Nat → Byte) (k : Nat) : List Event :=
  cursor c r.startCol (r.bandPage k) ++
    (List.range (r.columnCount c)).map fun j => .data (source (r.w * k + (r.firstColumn + j)))

/-- What a region that does not run past its source sends (R71, R73). -/
def Region.stream (c : Config) (r : Region) (source : Nat → Byte) : List Event :=
  .csAssert :: ((r.shownBands c).flatMap (r.bandStream c source) ++ [.csDeassert])

/-- What a region has sent when it stops at column `tx` of band `k` (R81). -/
def Region.streamUntil (c : Config) (r : Region) (source : Nat → Byte) (k tx : Nat) : List Event :=
  .csAssert :: (((r.shownBands c).filter (· < k)).flatMap (r.bandStream c source) ++ cursor c r.startCol (r.bandPage k) ++
    ((List.range tx).filter (r.visible c)).map fun t => .data (source (r.w * k + t)))

/-- A region reads no offset at or past the length of its source (R81). -/
def Region.NoOverrun (c : Config) (r : Region) (len : Nat) : Prop :=
  ∀ k, k < r.bandCount → r.skipped c k = false → ∀ tx, tx < r.w → r.visible c tx = true → r.w * k + tx < len

/-- The instruction is a region operation, and in state `s` it is REGION over `r` with the source of `len` bytes that `source` gives:
the Frame Buffer for SYNC and UPDATE, the presented array for DRAW (R90, R92, R94). -/
def RegionOperation (i : Instr) (s : State) (r : Region) (len : Nat) (source : Nat → Byte) : Prop :=
  (i = .sync r.x r.y r.w r.h ∧ len = s.cfg.bufLen ∧ source = s.fb.read) ∨
  (i = .update ∧ r = { x := 0, y := 0, w := s.cfg.W, h := s.cfg.H } ∧ len = s.cfg.bufLen ∧ source = s.fb.read) ∨
  (i = .draw r.x r.y r.w r.h ∧ len = s.src.length ∧ source = fun off => s.src.getD off 0)

/-- Column index `tx` of band `k` is sent to byte `(p, col)` of the panel (R83, R84). -/
def Region.Covers (c : Config) (r : Region) (k tx p col : Nat) : Prop :=
  (k < r.bandCount ∧ r.skipped c k = false) ∧ (tx < r.w ∧ r.visible c tx = true) ∧
  p = r.bandPage k ∧ (col : Int) = r.x + (tx : Int)

end Sys2Proof.Machine
end

