-- ==== Sys2Proof/Certificates/Slice0/Obligations.lean ====
section
/-!
DEFINITION. The statements for the provers, each citing the rules of spec/ it formalises. They are about every state and every legal
setting of the parameters of 00_scope.md R6 unless a statement says otherwise.
-/
open Sys2Proof Sys2Proof.Machine

/-! ## Encoding -/

/-- Words written out from the formats R47 to R49 decode to the operations they stand for (R50, R57; vectors P-5, E-9 to E-11). -/
def Obligations.DecodesWordsOfTheSpec : Prop :=
  decode 0x10000001000A0005#64 = .ok (.setpixel 5 10 .foreground) ∧
  decode 0x10000002FFFFFFFF#64 = .ok (.setpixel (-1) (-1) .inverse) ∧
  decode 0x2000000000000000#64 = .ok .clear ∧
  decode 0x300040FF00000000#64 = .ok (.sync 0 0 255 64) ∧
  decode 0x4000000000000000#64 = .ok .update ∧
  decode 0x50001004FFFDFFFD#64 = .ok (.draw (-3) (-3) 4 16)

/-- Decoding the word of a well-formed operation gives the operation back, at every value of every operand (R47 to R52, R57). -/
def Obligations.DecodeOfEncodeIsTheInstruction : Prop :=
  ∀ i : Instr, i.WellFormed → decode (encode i) = .ok i

/-- A word that decodes names a well-formed operation and is that operation's only word (R50, R52, R54, R57). -/
def Obligations.EncodeOfDecodeIsTheWord : Prop :=
  ∀ (w : CommandWord) (i : Instr), decode w = .ok i → i.WellFormed ∧ encode i = w

/-- The opcode map of R52: each row's `match` and `mask` select exactly the words of its operation, SETPIXEL less COLOR 3, and the
opcodes of the reserved rows select none. -/
def Obligations.MatchAndMaskSelectTheOperation : Prop :=
  ∀ w : CommandWord,
    ((∃ x y c, decode w = .ok (.setpixel x y c)) ↔
      w &&& 0xFFFFFFFC00000000#64 = 0x1000000000000000#64 ∧ w.extractLsb' 32 2 ≠ 3#2) ∧
    (decode w = .ok .clear ↔ w &&& 0xFFFFFFFFFFFFFFFF#64 = 0x2000000000000000#64) ∧
    ((∃ x y rw rh, decode w = .ok (.sync x y rw rh)) ↔ w &&& 0xFFFF000000000000#64 = 0x3000000000000000#64) ∧
    (decode w = .ok .update ↔ w &&& 0xFFFFFFFFFFFFFFFF#64 = 0x4000000000000000#64) ∧
    ((∃ x y rw rh, decode w = .ok (.draw x y rw rh)) ↔ w &&& 0xFFFF000000000000#64 = 0x5000000000000000#64) ∧
    ((w.extractLsb' 60 4 = 0x0#4 ∨ 0x6#4 ≤ w.extractLsb' 60 4) → decode w = .error .reservedOpcode)

/-- R53: a word with opcode 0x0 or 0x6..0xF is refused before any effect; only the mark is recorded (R103). -/
def Obligations.ReservedOpcodeIsRefused : Prop :=
  ∀ (s : State) (w : CommandWord) (src : List Byte) (rest : List Input),
    s.phase = .idle → s.inputs = .command w src :: rest →
    (w.extractLsb' 60 4 = 0x0#4 ∨ 0x6#4 ≤ w.extractLsb' 60 4) →
    step s = .next { s with inputs := rest, refusals := s.refusals ++ [.reservedOpcode] }

/-- R54: a word of a legal opcode whose reserved bits are not all zero is refused before any effect (R103). -/
def Obligations.ReservedBitsAreRefused : Prop :=
  ∀ (s : State) (w : CommandWord) (src : List Byte) (rest : List Input),
    s.phase = .idle → s.inputs = .command w src :: rest →
    (w.extractLsb' 60 4 = 1#4 ∧ w.extractLsb' 34 26 ≠ 0#26 ∨
     (w.extractLsb' 60 4 = 2#4 ∨ w.extractLsb' 60 4 = 4#4) ∧ w.extractLsb' 0 60 ≠ 0#60 ∨
     (w.extractLsb' 60 4 = 3#4 ∨ w.extractLsb' 60 4 = 5#4) ∧ w.extractLsb' 48 12 ≠ 0#12) →
    step s = .next { s with inputs := rest, refusals := s.refusals ++ [.reservedBits] }

/-- R55: a SETPIXEL word with COLOR 3 is refused before any effect; the reason is the reserved bits where those are not zero either,
since R57 checks them first (R105). -/
def Obligations.ReservedColorIsRefused : Prop :=
  ∀ (s : State) (w : CommandWord) (src : List Byte) (rest : List Input),
    s.phase = .idle → s.inputs = .command w src :: rest →
    w.extractLsb' 60 4 = 1#4 → w.extractLsb' 32 2 = 3#2 →
    step s = .next { s with
      inputs := rest,
      refusals := s.refusals ++ [if w.extractLsb' 34 26 = 0#26 then .reservedColor else .reservedBits] }

/-- R59: UPDATE has the effect of `SYNC 0, 0, W, H` where `W <= 255`, and for `W = 256` no word decodes to that SYNC. -/
def Obligations.UpdateIsTheFullSync : Prop :=
  ∀ s : State, s.cfg.Legal →
    (s.cfg.W ≤ 255 → (Instr.sync 0 0 s.cfg.W s.cfg.H).WellFormed ∧ exec .update s = exec (.sync 0 0 s.cfg.W s.cfg.H) s) ∧
    (s.cfg.W = 256 → ∀ (w : CommandWord) (x y : Int) (h : Nat), decode w ≠ .ok (.sync x y s.cfg.W h))

/-! ## Pixel operations -/

/-- SETPIXEL on the buffer: it completes, writes the one byte R63 names with the value R63 gives, and changes nothing else but that the
block is idle after it (R26). -/
def Obligations.SetPixelWritesItsByte : Prop :=
  ∀ (s : State) (x y : Int) (color : Color),
    0 ≤ x → x < s.cfg.W → 0 ≤ y → y < s.cfg.H →
    ∃ t, exec (.setpixel x y color) s = .next t ∧ t = { s with fb := t.fb, phase := .idle } ∧
      ∀ i, t.fb.read i =
        if i = s.cfg.W * (y / 8).toNat + x.toNat then
          match color with
          | .foreground => s.fb.read i ||| 1#8 <<< (y % 8).toNat
          | .background => s.fb.read i &&& ~~~(1#8 <<< (y % 8).toNat)
          | .inverse => s.fb.read i ^^^ 1#8 <<< (y % 8).toNat
        else s.fb.read i

/-- R64: SETPIXEL off the buffer completes and changes nothing: no byte, no event, no fault, no refusal. -/
def Obligations.SetPixelOffTheBufferChangesNothing : Prop :=
  ∀ (s : State) (x y : Int) (color : Color),
    (x < 0 ∨ (s.cfg.W : Int) ≤ x ∨ y < 0 ∨ (s.cfg.H : Int) ≤ y) →
    exec (.setpixel x y color) s = .next { s with phase := .idle }

/-- R65: SETPIXEL on the buffer changes at most bit `y mod 8` of byte `W*(y div 8) + x`, which becomes 1, 0 or its complement; every
other bit of every byte keeps its value, whatever the buffer held. -/
def Obligations.SetPixelChangesOneBit : Prop :=
  ∀ (s : State) (x y : Int) (color : Color),
    0 ≤ x → x < s.cfg.W → 0 ≤ y → y < s.cfg.H →
    ∃ t, exec (.setpixel x y color) s = .next t ∧
      ∀ (i b : Nat), b < 8 → (t.fb.read i).getLsbD b =
        if i = s.cfg.W * (y / 8).toNat + x.toNat ∧ b = (y % 8).toNat then
          match color with
          | .foreground => true
          | .background => false
          | .inverse => !(s.fb.read i).getLsbD b
        else (s.fb.read i).getLsbD b

/-- No two pixels share a bit (R16): SETPIXEL changes its own pixel of the panel and no other, and stays inside the buffer (R32). -/
def Obligations.SetPixelChangesOnlyItsPixel : Prop :=
  ∀ (s : State) (x y x' y' : Int) (color : Color), s.cfg.Legal →
    0 ≤ x → x < s.cfg.W → 0 ≤ y → y < s.cfg.H → 0 ≤ x' → x' < s.cfg.W → 0 ≤ y' → y' < s.cfg.H →
    s.cfg.W * (y / 8).toNat + x.toNat < s.cfg.bufLen ∧
    ∃ t, exec (.setpixel x y color) s = .next t ∧
      t.pixel x' y' =
        if x' = x ∧ y' = y then
          match color with
          | .foreground => true
          | .background => false
          | .inverse => !s.pixel x y
        else s.pixel x' y'

/-- R66: on one coordinate, Foreground twice is Foreground once, Background twice is Background once, Inverse twice restores the
buffer, and of Foreground and Background the last write wins; SETPIXELs on two different coordinates on the buffer commute. -/
def Obligations.SetPixelLaws : Prop :=
  ∀ (s : State) (x y : Int), s.fb.wf = true →
    (∀ (color : Color) (s₁ s₂ : State), color ≠ .inverse →
      exec (.setpixel x y color) s = .next s₁ → exec (.setpixel x y color) s₁ = .next s₂ → s₂ = s₁) ∧
    (∀ s₁ s₂ : State, exec (.setpixel x y .inverse) s = .next s₁ → exec (.setpixel x y .inverse) s₁ = .next s₂ →
      s₂ = { s with phase := .idle }) ∧
    (0 ≤ x → x < s.cfg.W → 0 ≤ y → y < s.cfg.H →
      (∀ s₁ s₂ : State, exec (.setpixel x y .foreground) s = .next s₁ → exec (.setpixel x y .background) s₁ = .next s₂ →
        s₂.pixel x y = false) ∧
      (∀ s₁ s₂ : State, exec (.setpixel x y .background) s = .next s₁ → exec (.setpixel x y .foreground) s₁ = .next s₂ →
        s₂.pixel x y = true) ∧
      (∀ (x' y' : Int) (color color' : Color) (s₁ s₂ s₁' s₂' : State),
        0 ≤ x' → x' < s.cfg.W → 0 ≤ y' → y' < s.cfg.H → (x ≠ x' ∨ y ≠ y') →
        exec (.setpixel x y color) s = .next s₁ → exec (.setpixel x' y' color') s₁ = .next s₂ →
        exec (.setpixel x' y' color') s = .next s₁' → exec (.setpixel x y color) s₁' = .next s₂' → s₂ = s₂'))

/-- CLEAR completes, leaves every byte of the buffer zero, and changes nothing else but that the block is idle after it (R67, R68). -/
def Obligations.ClearZeroesTheBuffer : Prop :=
  ∀ s : State, ∃ t, exec .clear s = .next t ∧ t = { s with fb := t.fb, phase := .idle } ∧
    ∀ i, t.fb.read i = if i < s.cfg.bufLen then 0x00#8 else s.fb.read i

/-- CLEAR is the loop of R67's pseudocode: a write of zero to every index `0 .. BUF_LEN-1`, in order. -/
def Obligations.ClearIsTheWriteLoop : Prop :=
  ∀ s : State, s.fb.wf = true →
    exec .clear s =
      .next { s with fb := (List.range s.cfg.bufLen).foldl (fun m i => m.write i 0x00#8) s.fb, phase := .idle }

/-- R69: after CLEAR every pixel of the buffer is Background, and an Inverse then makes its pixel Foreground. -/
def Obligations.ClearThenInverseIsForeground : Prop :=
  ∀ s s₁ : State, s.cfg.Legal → exec .clear s = .next s₁ →
    ∀ x y : Int, 0 ≤ x → x < s.cfg.W → 0 ≤ y → y < s.cfg.H →
      s₁.pixel x y = false ∧
      ∃ s₂, exec (.setpixel x y .inverse) s₁ = .next s₂ ∧ s₂.pixel x y = true

/-! ## Region operations -/

/-- R84: in a band the columns on the panel are exactly `max(0, -x) .. min(w, W - x) - 1`, a contiguous run of `n` columns whose
display columns run contiguously from `max(x, 0)`, the first of which is the column the cursor programs. -/
def Obligations.ColumnsOnThePanelAreContiguous : Prop :=
  ∀ (c : Config) (r : Region), c.Legal →
    (List.range r.w).filter (r.visible c) = (List.range (r.columnCount c)).map (r.firstColumn + ·) ∧
    (∀ j, j < r.columnCount c → r.x + ((r.firstColumn + j : Nat) : Int) = max r.x 0 + (j : Int)) ∧
    (0 < r.columnCount c → (r.startCol.toNat : Int) = max r.x 0)

/-- The page of every shown band is on the panel, fits the nibble of the page command and overlaps no bit of its code (R83). -/
def Obligations.PageOfEveryShownBandIsOnThePanel : Prop :=
  ∀ (c : Config) (r : Region) (k : Nat), c.Legal → k < r.bandCount → r.skipped c k = false →
    0 ≤ (r.y + 8 * (k : Int)) / 8 ∧ (r.y + 8 * (k : Int)) / 8 ≤ (c.pageCount : Int) - 1 ∧ r.bandPage k < 16 ∧
    pageByte c (r.bandPage k) = c.cmdPage + BitVec.ofNat 8 (r.bandPage k)

/-- The two settings of `VCLIP_RULE` differ only on a band whose top row is on the panel and whose last region row is below it, and
there `ANY_ROW` skips and `TOP_ROW` does not (R77, C1). -/
def Obligations.ClipRulesDifferOnlyAtTheBottomEdge : Prop :=
  ∀ (c : Config) (r : Region) (k : Nat), k < r.bandCount →
    (r.skipped { c with vclip := .anyRow } k ≠ r.skipped { c with vclip := .topRow } k ↔
      0 ≤ r.top k ∧ r.top k < c.H ∧ (c.H : Int) ≤ r.bottom k) ∧
    (r.skipped { c with vclip := .topRow } k = true → r.skipped { c with vclip := .anyRow } k = true)

/-- SYNC, UPDATE and DRAW complete whenever no offset they read is past their source, and then send exactly the closed form of R83 and
R84: one burst, per shown band the cursor with the band's own page and the contiguous run of the band's columns on the panel. Nothing
else changes but the sequencer, which has no meaning while idle (R22), and the model's count of free values. -/
def Obligations.RegionOperationSendsItsStream : Prop :=
  ∀ (i : Instr) (s : State) (r : Region) (len : Nat) (source : Nat → Byte),
    RegionOperation i s r len source → r.NoOverrun s.cfg len →
    ∃ t, exec i s = .next t ∧
      t = { s with out := s.out ++ r.stream s.cfg source, csAsserted := false, cdLevel := t.cdLevel, phase := .idle,
                   seq := t.seq, draws := t.draws } ∧
      (s.cdLevel = s.cfg.dataLevel → t.cdLevel = s.cfg.dataLevel)

/-- R81: where some offset read is past the source, the operation stops with the fault, which carries the first such offset in the order
REGION reads; the events before it stay in the output stream, `CS` stays asserted, no further event is sent, and the buffer is
unchanged. UPDATE meets the hypotheses with illegal parameters only (R93). -/
def Obligations.RegionOperationFaultsAtItsFirstOverrun : Prop :=
  ∀ (i : Instr) (s : State) (r : Region) (len : Nat) (source : Nat → Byte),
    RegionOperation i s r len source → ¬r.NoOverrun s.cfg len →
    ∃ k tx left, exec i s = .fault (.sourceOverrun (r.w * k + tx) left) ∧
      (k < r.bandCount ∧ r.skipped s.cfg k = false ∧ tx < r.w ∧ r.visible s.cfg tx = true ∧ len ≤ r.w * k + tx) ∧
      (∀ k' tx', k' < r.bandCount → r.skipped s.cfg k' = false → tx' < r.w → r.visible s.cfg tx' = true →
        (k' < k ∨ k' = k ∧ tx' < tx) → r.w * k' + tx' < len) ∧
      left = { s with out := s.out ++ r.streamUntil s.cfg source k tx, csAsserted := true, cdLevel := left.cdLevel,
                      phase := left.phase, seq := left.seq, faults := left.faults }

/-- What a fault leaves beside R81's words, the model's reading of R22, R26, R101 and R107 (log entries 10 and 16): the mark with the
offset, a block that stays busy, the command/data line at the data level, the sequencer registers where the operation stopped. -/
def Obligations.FaultLeavesTheBlockBusyAndMarked : Prop :=
  ∀ (i : Instr) (s left : State) (r : Region) (len off : Nat) (source : Nat → Byte),
    RegionOperation i s r len source → exec i s = .fault (.sourceOverrun off left) →
    left.phase = .busy ∧ left.faults = s.faults ++ [.sourceOverrun off] ∧ left.cdLevel = s.cfg.dataLevel ∧
    left.fb = s.fb ∧ left.refusals = s.refusals ∧
    ∃ k tx, k < r.bandCount ∧ r.skipped s.cfg k = false ∧ tx < r.w ∧ off = r.w * k + tx ∧
      left.seq = { k := BitVec.ofNat 5 k, tx := BitVec.ofNat 8 tx, col := r.startCol, page := BitVec.ofNat 5 (r.bandPage k) }

/-- R73: a region operation is one burst. It begins with `CS_ASSERT` and ends with `CS_DEASSERT`, with no framing event between, and is
`CS_ASSERT, CS_DEASSERT` where every band is skipped; one that faults sends no `CS_DEASSERT`. -/
def Obligations.RegionOperationIsOneBurst : Prop :=
  ∀ (i : Instr) (s : State) (r : Region) (len : Nat) (source : Nat → Byte), RegionOperation i s r len source →
    (∀ t, exec i s = .next t →
      ∃ mid, t.out = s.out ++ (.csAssert :: mid ++ [.csDeassert]) ∧ (∀ e ∈ mid, e.framing = false) ∧
        ((∀ k, k < r.bandCount → r.skipped s.cfg k = true) → mid = [])) ∧
    (∀ off left, exec i s = .fault (.sourceOverrun off left) →
      ∃ mid, left.out = s.out ++ .csAssert :: mid ∧ ∀ e ∈ mid, e.framing = false)

/-- R85: a region inside the panel with a source long enough: no band and no column is skipped, and each band sends its three cursor
commands with `col = x` and `page = y div 8 + k`, then exactly `w` bytes, under either `VCLIP_RULE`. -/
def Obligations.RegionInsideThePanelSendsEveryByte : Prop :=
  ∀ (i : Instr) (s : State) (r : Region) (len : Nat) (source : Nat → Byte),
    RegionOperation i s r len source → s.cfg.Legal →
    0 ≤ r.x → r.x + (r.w : Int) ≤ s.cfg.W → 0 ≤ r.y → r.y + (r.h : Int) ≤ s.cfg.H → r.w * ((r.h + 7) / 8) ≤ len →
    (∀ k, k < (r.h + 7) / 8 → r.skipped s.cfg k = false) ∧ (∀ tx, tx < r.w → r.visible s.cfg tx = true) ∧
    ∃ t, exec i s = .next t ∧
      t.out = s.out ++ (.csAssert ::
        ((List.range ((r.h + 7) / 8)).flatMap fun k =>
          cursor s.cfg (BitVec.ofNat 8 r.x.toNat) ((r.y / 8).toNat + k) ++
            (List.range r.w).map fun tx => .data (source (r.w * k + tx))) ++ [.csDeassert])

/-- How many events a region operation sends, and a source length that always suffices (R86). -/
def Obligations.EventCountOfARegionOperation : Prop :=
  ∀ (i : Instr) (s : State) (r : Region) (len : Nat) (source : Nat → Byte), RegionOperation i s r len source →
    (∀ t, exec i s = .next t →
      t.out.length = s.out.length + 2 + (r.shownBands s.cfg).length * (3 + r.columnCount s.cfg)) ∧
    (r.w * ((r.h + 7) / 8) ≤ len → ∃ t, exec i s = .next t)

/-- The source is read only where a byte is sent (R86): DRAWs of one region, on machines of the same parameters, whose arrays agree at
the offsets of the columns shown, send the same events, or stop at the same offset; nothing else of the two states matters. -/
def Obligations.DrawDependsOnlyOnTheBytesItShows : Prop :=
  ∀ (s s' : State) (r : Region), s.cfg = s'.cfg →
    (∀ k tx, k < r.bandCount → r.skipped s.cfg k = false → tx < r.w → r.visible s.cfg tx = true →
      s.src[r.w * k + tx]? = s'.src[r.w * k + tx]?) →
    ∃ evs,
      (∃ t t', exec (.draw r.x r.y r.w r.h) s = .next t ∧ exec (.draw r.x r.y r.w r.h) s' = .next t' ∧
        t.out = s.out ++ evs ∧ t'.out = s'.out ++ evs) ∨
      (∃ off t t', exec (.draw r.x r.y r.w r.h) s = .fault (.sourceOverrun off t) ∧
        exec (.draw r.x r.y r.w r.h) s' = .fault (.sourceOverrun off t') ∧
        t.out = s.out ++ evs ∧ t'.out = s'.out ++ evs)

/-- The corner cases of R87 that the stream shows: no band at all, every band above or below the panel, and bands with no column on
the panel, which send their cursor and no byte. None of them reads the source, so none faults. -/
def Obligations.ClippedRegionsReadNothing : Prop :=
  ∀ (i : Instr) (s : State) (r : Region) (len : Nat) (source : Nat → Byte), RegionOperation i s r len source →
    ((r.h = 0 ∨ (s.cfg.H : Int) ≤ r.y ∨ r.y + (r.h : Int) ≤ 0) →
      ∃ t, exec i s = .next t ∧ t.out = s.out ++ [.csAssert, .csDeassert]) ∧
    ((r.w = 0 ∨ (s.cfg.W : Int) ≤ r.x ∨ r.x + (r.w : Int) ≤ 0) →
      ∃ t, exec i s = .next t ∧
        t.out = s.out ++ (.csAssert ::
          ((r.shownBands s.cfg).flatMap fun k => cursor s.cfg (BitVec.ofNat 8 (max r.x 0).toNat) (r.bandPage k)) ++
          [.csDeassert]))

/-- R93: UPDATE never faults, and its output is exactly, page by page, the three cursor commands at column 0 and the `W` bytes of the
page: `2 + PAGES * (3 + W)` events. -/
def Obligations.UpdateSendsEveryPage : Prop :=
  ∀ s : State, s.cfg.Legal →
    ∃ t, exec .update s = .next t ∧
      t.out = s.out ++ (.csAssert ::
        ((List.range s.cfg.pageCount).flatMap fun p =>
          [.cmd (s.cfg.cmdColLo ||| 0#8), .cmd (s.cfg.cmdColHi ||| 0#8), .cmd (s.cfg.cmdPage ||| BitVec.ofNat 8 p)] ++
            (List.range s.cfg.W).map fun c => .data (s.fb.read (s.cfg.W * p + c))) ++ [.csDeassert]) ∧
      t.out.length = s.out.length + (2 + s.cfg.pageCount * (3 + s.cfg.W))

/-- Every operation that decodes ends within the bound of R129: a region runs at most 32 bands of 255 columns, or the whole panel. -/
def Obligations.OperationsSendBoundedStreams : Prop :=
  ∀ (i : Instr) (s t : State), s.cfg.Legal → i.WellFormed → exec i s = .next t →
    s.out.length ≤ t.out.length ∧ t.out.length ≤ s.out.length + 2 + 32 * 3 + 8160

/-! ## What the panel shows (the reference observer of R96) -/

/-- R97: after a region operation that does not fault, the observer holds every byte the region covers at the place it covers, no other
byte of its display memory has changed, and no data was written off the panel. The three command codes are taken to differ, as R61 has
them at the defaults; that the observer refuses what R96 gives no meaning is the model's choice (log entry 18). -/
def Obligations.PanelShowsTheRegion : Prop :=
  ∀ (i : Instr) (s t : State) (r : Region) (len : Nat) (source : Nat → Byte) (o : Observer),
    RegionOperation i s r len source → s.cfg.Legal → s.cfg.CodesDistinct → exec i s = .next t →
    ∃ evs o', t.out = s.out ++ evs ∧ o.watch s.cfg evs = some o' ∧
      (∀ k tx p col, r.Covers s.cfg k tx p col → o'.pixelByte s.cfg p col = source (r.w * k + tx)) ∧
      (∀ p col, p < s.cfg.pageCount → col < s.cfg.W → (∀ k tx, ¬r.Covers s.cfg k tx p col) →
        o'.pixelByte s.cfg p col = o.pixelByte s.cfg p col)

/-- R98: after UPDATE the observer's display memory is the Frame Buffer, byte for byte. The three command codes are taken to differ, as
R61 has them at the defaults; that the observer refuses what R96 gives no meaning is the model's choice (log entry 18). -/
def Obligations.PanelShowsTheBufferAfterUpdate : Prop :=
  ∀ (s : State) (o : Observer), s.cfg.Legal → s.cfg.CodesDistinct →
    ∃ t evs o', exec .update s = .next t ∧ t.out = s.out ++ evs ∧ o.watch s.cfg evs = some o' ∧
      ∀ p col, p < s.cfg.pageCount → col < s.cfg.W → o'.pixelByte s.cfg p col = t.fb.read (s.cfg.W * p + col)

/-! ## The machine -/

/-- A step runs the decoded instruction: an idle block takes the word at the head of what is presented, its source array stands on the
source read port, the block is busy, and the step is `exec` of the instruction there (R14, R20, R26, R27). -/
def Obligations.StepRunsTheDecodedInstruction : Prop :=
  ∀ (s : State) (w : CommandWord) (src : List Byte) (rest : List Input) (i : Instr),
    s.phase = .idle → s.inputs = .command w src :: rest → decode w = .ok i →
    step s = exec i { s with inputs := rest, src := src, phase := .busy }

/-- A busy block takes no word and no buffer read: they wait, and nothing changes (R26, R28, R120; log entry 8). With nothing
presented the block waits (R115; log entry 7). Whatever stands behind a held word or read waits with it, a reset too (log entry 24). -/
def Obligations.BusyBlockHoldsWhatIsPresented : Prop :=
  ∀ s : State,
    (s.inputs = [] → step s = .next s) ∧
    (s.phase = .busy →
      (∀ w src rest, s.inputs = .command w src :: rest → step s = .next s) ∧
      (∀ i rest, s.inputs = .readBuf i :: rest → step s = .next s))

/-- An operation runs to completion in one step: from an idle block every next state is idle (R14, R26). -/
def Obligations.IdleBlockStaysIdle : Prop :=
  ∀ s t : State, s.phase = .idle → step s = .next t → t.phase = .idle

/-- The only stop is the source overrun of a SYNC or a DRAW: no other word, no UPDATE, no port read and no reset faults (R101, R102, R104,
R108). That no step answers the host interface's `refused`, a word or read the spec refuses (R53 to R55, R104) being a next state with its
mark, is the model's choice (DEDUCED, log entry 9). -/
def Obligations.OnlySyncAndDrawCanStop : Prop :=
  ∀ s : State, s.cfg.Legal →
    (∀ reason, step s ≠ .refused reason) ∧
    (∀ f, step s = .fault f →
      s.phase = .idle ∧ ∃ w src rest x y rw rh, s.inputs = .command w src :: rest ∧
        (decode w = .ok (.sync x y rw rh) ∨ decode w = .ok (.draw x y rw rh)))

/-- The dimension read port answers the parameters at any time (R18); the registers hold them whole at their widths. -/
def Obligations.DimensionRegistersReadTheParameters : Prop :=
  ∀ (s : State) (n : Nat) (rest : List Input), s.cfg.Legal → s.inputs = .readDim n :: rest → n < 4 →
    step s = .next { s with
      inputs := rest,
      replies := s.replies ++ [.dim n (if n = 0 then s.cfg.W else if n = 1 then s.cfg.H else if n = 2 then s.cfg.H / 8
        else s.cfg.W * s.cfg.H / 8)] }

/-- The buffer read port answers the byte the last completed operation left (R28), and changes nothing else (R38, R62). -/
def Obligations.BufferReadAnswersTheByte : Prop :=
  ∀ (s : State) (i : Nat) (rest : List Input), s.phase = .idle → s.inputs = .readBuf i :: rest → i < s.cfg.bufLen →
    step s = .next { s with inputs := rest, replies := s.replies ++ [.byte i (s.fb.read i)] }

/-- R104: a dimension read of a number other than 0..3, or a buffer read at or past `BUF_LEN`, answers nothing and leaves the mark. -/
def Obligations.PortReadsOutOfRangeAreRefused : Prop :=
  ∀ (s : State) (n : Nat) (rest : List Input),
    (s.inputs = .readDim n :: rest → 4 ≤ n →
      step s = .next { s with inputs := rest, refusals := s.refusals ++ [.portRange] }) ∧
    (s.phase = .idle → s.inputs = .readBuf n :: rest → s.cfg.bufLen ≤ n →
      step s = .next { s with inputs := rest, refusals := s.refusals ++ [.portRange] })

/-- Command order is memory order (R40): a buffer read presented after a SETPIXEL gives the painted byte, and after a CLEAR zero. -/
def Obligations.ReadBackFollowsTheCommandBefore : Prop :=
  ∀ (s : State) (w : CommandWord) (src : List Byte) (rest : List Input), s.cfg.Legal → s.phase = .idle →
    (∀ (x y : Int) (color : Color), 0 ≤ x → x < s.cfg.W → 0 ≤ y → y < s.cfg.H →
      decode w = .ok (.setpixel x y color) →
      s.inputs = .command w src :: .readBuf (s.cfg.W * (y / 8).toNat + x.toNat) :: rest →
      ∃ t, Host.Core.run Sys2Proof.core 2 s = .next t ∧
        t.replies = s.replies ++ [.byte (s.cfg.W * (y / 8).toNat + x.toNat)
          (paint color (1#8 <<< (y % 8).toNat) (s.fb.read (s.cfg.W * (y / 8).toNat + x.toNat)))]) ∧
    (∀ i, i < s.cfg.bufLen → decode w = .ok .clear → s.inputs = .command w src :: .readBuf i :: rest →
      ∃ t, Host.Core.run Sys2Proof.core 2 s = .next t ∧ t.replies = s.replies ++ [.byte i 0x00#8])

/-- The Frame Buffer is written only by SETPIXEL and CLEAR, and by a reset (R17, R95, R115). -/
def Obligations.BufferIsWrittenOnlyByPixelOperations : Prop :=
  ∀ s t : State, step s = .next t → t.fb ≠ s.fb →
    (∃ w src rest, s.inputs = .command w src :: rest ∧
      ((∃ x y color, decode w = .ok (.setpixel x y color)) ∨ decode w = .ok .clear)) ∨
    (∃ fbInit rest, s.inputs = .reset fbInit :: rest)

/-- The output stream is append-only while the block is not reset, and only SYNC, UPDATE and DRAW add to it (R24, R68). -/
def Obligations.OutputIsAppendOnly : Prop :=
  ∀ s t : State, step s = .next t → (∀ fbInit rest, s.inputs ≠ .reset fbInit :: rest) →
    ∃ evs, t.out = s.out ++ evs ∧
      (evs ≠ [] → ∃ w src rest i r len source, s.inputs = .command w src :: rest ∧ decode w = .ok i ∧
        RegionOperation i { s with src := src } r len source)

/-- The marks are sticky: no step takes one away, a reset neither (R103, R107; that a reset keeps them is log entry 11). -/
def Obligations.MarksAreSticky : Prop :=
  ∀ s : State,
    (∀ t, step s = .next t → s.refusals <+: t.refusals ∧ s.faults <+: t.faults) ∧
    (∀ off left, step s = .fault (.sourceOverrun off left) →
      left.refusals = s.refusals ∧ left.faults = s.faults ++ [.sourceOverrun off])

/-- Nothing writes the dimension registers (R18, R17 "never resized"): no step changes a parameter. -/
def Obligations.ParametersNeverChange : Prop :=
  ∀ s : State,
    (∀ t, step s = .next t →
      t.cfg = s.cfg ∧ t.width = s.width ∧ t.height = s.height ∧ t.pages = s.pages ∧ t.bufLenReg = s.bufLenReg) ∧
    (∀ off left, step s = .fault (.sourceOverrun off left) → left.cfg = s.cfg)

/-- Every step keeps the invariant: legal parameters, the Frame Buffer in canonical form with no byte outside it (R15), the lines at rest
while the block is idle (R23). -/
def Obligations.StepsKeepTheInvariant : Prop :=
  ∀ s t : State, s.Inv → step s = .next t → t.Inv

/-- Every step keeps the output stream a sequence of whole bursts while the block is idle: commands and data only inside a burst, data
only after the three cursor commands of its band (R25, R73, R78); and the stream a fault leaves breaks the rule nowhere. -/
def Obligations.StepsKeepTheFraming : Prop :=
  ∀ s : State, s.WholeBursts →
    (∀ t, step s = .next t → t.WholeBursts) ∧
    (∀ off left, step s = .fault (.sourceOverrun off left) → ∃ f, Framing.after .between left.out = some f ∧ f ≠ .between)

/-- The invariant and the framing hold after reset, for every legal setting of the parameters and every content the Frame Buffer comes
up with (R29), and so at `State.reset`. -/
def Obligations.InvariantHoldsAtReset : Prop :=
  (∀ (c : Config) (fbInit : List Byte), c.Legal →
    (State.resetWith c fbInit).Inv ∧ (State.resetWith c fbInit).WholeBursts ∧ (State.resetWith c fbInit).Clean) ∧
  State.reset.Inv ∧ State.reset.WholeBursts ∧ State.reset.Clean

/-- Reset puts every piece of state that R29 gives a value in that value, the Frame Buffer holding whatever bytes `FB_INIT` gives, and the
block then waits, idle, for the first command word (R29, R115). That waiting is a step that changes nothing is the model's choice
(DEDUCED, log entry 7). -/
def Obligations.ResetLeavesTheValuesOfTheSpec : Prop :=
  ∀ (c : Config) (fbInit : List Byte), c.Legal → fbInit.length = c.bufLen →
    let s := State.resetWith c fbInit
    (∀ i, i < c.bufLen → s.fb.read i = fbInit.getD i 0x00#8) ∧
    s.phase = .idle ∧ s.csAsserted = false ∧ s.cdLevel = (!c.cdCmdLevel) ∧ s.out = [] ∧
    s.width.toNat = c.W ∧ s.height.toNat = c.H ∧ s.pages.toNat = c.H / 8 ∧ s.bufLenReg.toNat = c.W * c.H / 8 ∧
    step s = .next s

/-- A reset, or the return of power, that is the oldest thing presented (R115, R116): in either phase it leaves every piece of state that
R29 gives a value in that value, with the content that comes up. The model's choices in it: that only the oldest input is taken, so that a
reset behind a word a busy block holds is not (log entries 6 and 24), that a reset lands between operations (log entry 19), and that the
marks, the read answers given and the count of free values stay (log entry 11). The sequencer and the source port, which R29 gives no
value, are left unsaid (log entries 2 and 12). -/
def Obligations.ResetTakenLeavesTheResetState : Prop :=
  ∀ (s : State) (fbInit : List Byte) (rest : List Input), s.inputs = .reset fbInit :: rest →
    ∃ t, step s = .next t ∧ t.fb = (State.resetWith s.cfg fbInit).fb ∧ t.cfg = s.cfg ∧ t.phase = .idle ∧
      t.csAsserted = false ∧ t.cdLevel = s.cfg.dataLevel ∧ t.out = [] ∧ t.inputs = rest ∧
      t.refusals = s.refusals ∧ t.faults = s.faults ∧ t.replies = s.replies ∧ t.draws = s.draws
end

