-- ==== Sys2Proof/Laws/Decode.lean ====
section
/-!
SUPPORT. The fields of an assembled word: what the decoder reads back from a field put in place.
-/
namespace Sys2Proof

/-- A field read where it was put. -/
theorem extract_place {n : Nat} (v : BitVec n) (lo : Nat) (h : lo + n ≤ 64) : (place v lo).extractLsb' lo n = v := by
  ext i hi
  simp only [place, BitVec.getElem_extractLsb', BitVec.getLsbD_shiftLeft, BitVec.getLsbD_setWidth]
  rw [show lo + i - lo = i by omega, ← BitVec.getLsbD_eq_getElem hi]
  simp [show lo + i < 64 by omega, show i < 64 by omega]

/-- A field read beside where one was put is zero. -/
theorem extract_place_beside {n : Nat} (v : BitVec n) (lo lo' len : Nat) (h : lo' + len ≤ lo ∨ lo + n ≤ lo') :
    (place v lo).extractLsb' lo' len = 0#len := by
  ext i hi
  simp only [place, BitVec.getElem_extractLsb', BitVec.getLsbD_shiftLeft, BitVec.getLsbD_setWidth, BitVec.getElem_zero]
  rcases h with h | h
  · simp [show lo' + i < lo by omega]
  · simp [BitVec.getLsbD_of_ge v (lo' + i - lo) (by omega)]

end Sys2Proof
end

