-- ==== Sys2Proof/Laws/Memory.lean ====
section
/-!
SUPPORT. The laws of the byte memory: what a read gives after each operation, that every operation keeps the canonical form, and that
in canonical form equal contents are equal data.
-/
namespace Sys2Proof.Machine

@[simp] theorem Memory.read_nil (a : Nat) : Memory.read [] a = Memory.unlisted := rfl

@[simp] theorem Memory.read_cons (b : Nat) (u : Byte) (m : Memory) (a : Nat) :
    Memory.read ((b, u) :: m) a = if a = b then u else Memory.read m a := rfl

theorem Memory.erase_cons (b : Nat) (u : Byte) (m : Memory) (a : Nat) :
    Memory.erase ((b, u) :: m) a = if b = a then Memory.erase m a else (b, u) :: Memory.erase m a := by
  by_cases h : b = a <;> simp [Memory.erase, h]

theorem Memory.read_erase (m : Memory) (a b : Nat) :
    (m.erase a).read b = if b = a then Memory.unlisted else m.read b := by
  induction m with
  | nil => simp [Memory.erase]
  | cons c m ih =>
    obtain ⟨d, u⟩ := c
    rw [Memory.erase_cons]
    by_cases hd : d = a
    · rw [if_pos hd, ih]
      by_cases hb : b = a <;> simp [hd, hb]
    · by_cases hb : b = d
      · subst hb; simp [hd]
      · simp [hd, ih, hb]

/-- No cell of the memory has address `a`. -/
theorem Memory.ne_of_mem_erase (m : Memory) (a : Nat) : ∀ c ∈ m.erase a, c.1 ≠ a := by
  intro c hc
  simpa using (List.mem_filter.mp hc).2

theorem Memory.read_insert (a : Nat) (v : Byte) (m : Memory) (h : ∀ c ∈ m, c.1 ≠ a) (b : Nat) :
    Memory.read (Memory.insert a v m) b = if b = a then v else Memory.read m b := by
  induction m with
  | nil => simp [Memory.insert]
  | cons c m ih =>
    obtain ⟨d, u⟩ := c
    have hd : d ≠ a := h (d, u) (by simp)
    have ih' := ih fun c hc => h c (by simp [hc])
    by_cases hlt : a < d
    · simp [Memory.insert, hlt]
    · by_cases hb : b = d
      · subst hb; simp [Memory.insert, hlt, hd]
      · simp [Memory.insert, hlt, ih', hb]

/-- What a byte reads as after a write. -/
@[simp] theorem Memory.read_write (m : Memory) (a : Nat) (v : Byte) (b : Nat) :
    (m.write a v).read b = if b = a then v else m.read b := by
  unfold Memory.write
  by_cases hv : v = Memory.unlisted
  · rw [if_pos hv, Memory.read_erase]
    by_cases hb : b = a <;> simp [hb, hv]
  · rw [if_neg hv, Memory.read_insert a v _ (m.ne_of_mem_erase a), Memory.read_erase]
    by_cases hb : b = a <;> simp [hb]

/-- What a byte reads as after the bytes below `n` were zeroed. -/
@[simp] theorem Memory.read_zeroBelow (m : Memory) (n b : Nat) :
    (m.zeroBelow n).read b = if b < n then Memory.unlisted else m.read b := by
  induction m with
  | nil => simp [Memory.zeroBelow]
  | cons c m ih =>
    obtain ⟨d, u⟩ := c
    unfold Memory.zeroBelow at ih ⊢
    by_cases hd : n ≤ d
    · by_cases hb : b = d
      · subst hb; simp [hd, Nat.not_lt.mpr hd]
      · simp [hd, ih, hb]
    · by_cases hb : b = d
      · subst hb; simp [hd, ih, Nat.lt_of_not_le hd]
      · simp [hd, ih, hb]

theorem Memory.wfFrom_mono {lo lo' : Nat} {m : Memory} (h : Memory.wfFrom lo m = true) (hl : lo' ≤ lo) :
    Memory.wfFrom lo' m = true := by
  cases m with
  | nil => rfl
  | cons c m =>
    obtain ⟨a, v⟩ := c
    simp only [Memory.wfFrom, Bool.and_eq_true, decide_eq_true_eq] at h ⊢
    exact ⟨⟨by omega, h.1.2⟩, h.2⟩

theorem Memory.wfFrom_filter (p : Host.Cell → Bool) {lo : Nat} {m : Memory} (h : Memory.wfFrom lo m = true) :
    Memory.wfFrom lo (m.filter p) = true := by
  induction m generalizing lo with
  | nil => rfl
  | cons c m ih =>
    obtain ⟨a, v⟩ := c
    simp only [Memory.wfFrom, Bool.and_eq_true, decide_eq_true_eq] at h
    by_cases hp : p (a, v) = true
    · rw [List.filter_cons_of_pos hp]
      simp only [Memory.wfFrom, Bool.and_eq_true, decide_eq_true_eq]
      exact ⟨h.1, ih h.2⟩
    · rw [List.filter_cons_of_neg hp]
      exact Memory.wfFrom_mono (ih h.2) (by omega)

theorem Memory.wfFrom_insert {lo a : Nat} {v : Byte} {m : Memory} (h : Memory.wfFrom lo m = true) (hl : lo ≤ a)
    (hv : v ≠ Memory.unlisted) (hm : ∀ c ∈ m, c.1 ≠ a) : Memory.wfFrom lo (Memory.insert a v m) = true := by
  induction m generalizing lo with
  | nil => simp [Memory.insert, Memory.wfFrom, hl, hv]
  | cons c m ih =>
    obtain ⟨b, u⟩ := c
    have hb : b ≠ a := hm (b, u) (by simp)
    simp only [Memory.wfFrom, Bool.and_eq_true, decide_eq_true_eq] at h
    by_cases hlt : a < b
    · simp only [Memory.insert, hlt, if_true, Memory.wfFrom, Bool.and_eq_true, decide_eq_true_eq]
      exact ⟨⟨hl, hv⟩, ⟨by omega, h.1.2⟩, h.2⟩
    · simp only [Memory.insert, hlt, if_false, Memory.wfFrom, Bool.and_eq_true, decide_eq_true_eq]
      exact ⟨h.1, ih h.2 (by omega) fun c hc => hm c (by simp [hc])⟩

/-- A write keeps the canonical form. -/
theorem Memory.wf_write {m : Memory} (h : m.wf = true) (a : Nat) (v : Byte) : (m.write a v).wf = true := by
  unfold Memory.write
  by_cases hv : v = Memory.unlisted
  · rw [if_pos hv]; exact Memory.wfFrom_filter _ h
  · rw [if_neg hv]
    exact Memory.wfFrom_insert (Memory.wfFrom_filter _ h) (Nat.zero_le _) hv (m.ne_of_mem_erase a)

/-- Zeroing a range keeps the canonical form. -/
theorem Memory.wf_zeroBelow {m : Memory} (h : m.wf = true) (n : Nat) : (m.zeroBelow n).wf = true :=
  Memory.wfFrom_filter _ h

theorem Memory.wfFrom_ofBytes (a room : Nat) (vs : List Byte) : Memory.wfFrom a (Memory.ofBytes a room vs) = true := by
  induction vs generalizing a room with
  | nil => cases room <;> rfl
  | cons v vs ih =>
    cases room with
    | zero => rfl
    | succ room =>
      by_cases hv : v = Memory.unlisted
      · rw [Memory.ofBytes, if_pos hv]; exact Memory.wfFrom_mono (ih (a + 1) room) (by omega)
      · rw [Memory.ofBytes, if_neg hv]
        simp only [Memory.wfFrom, Bool.and_eq_true, decide_eq_true_eq]
        exact ⟨⟨by omega, hv⟩, ih (a + 1) room⟩

/-- The memory a list of bytes gives is in canonical form. -/
theorem Memory.wf_ofBytes (room : Nat) (vs : List Byte) : (Memory.ofBytes 0 room vs).wf = true :=
  Memory.wfFrom_ofBytes 0 room vs

/-- A write below `n` keeps every listed address below `n`. -/
theorem Memory.within_write {m : Memory} {n : Nat} (h : m.within n = true) {a : Nat} (ha : a < n) (v : Byte) :
    (m.write a v).within n = true := by
  have hfilter : ∀ p : Host.Cell → Bool, Memory.within (m.filter p) n = true := by
    intro p
    simp only [Memory.within, List.all_eq_true] at h ⊢
    exact fun c hc => h c (List.mem_of_mem_filter hc)
  have hins : ∀ m' : Memory, m'.within n = true → (Memory.insert a v m').within n = true := by
    intro m'
    induction m' with
    | nil => intro _; simp [Memory.insert, Memory.within, ha]
    | cons c m' ih =>
      obtain ⟨b, u⟩ := c
      intro hm
      simp only [Memory.within, List.all_cons, Bool.and_eq_true, decide_eq_true_eq] at hm
      by_cases hlt : a < b
      · simp only [Memory.insert, hlt, if_true, Memory.within, List.all_cons, Bool.and_eq_true, decide_eq_true_eq]
        exact ⟨ha, hm.1, hm.2⟩
      · simp only [Memory.insert, hlt, if_false, Memory.within, List.all_cons, Bool.and_eq_true, decide_eq_true_eq]
        exact ⟨hm.1, ih hm.2⟩
  unfold Memory.write
  by_cases hv : v = Memory.unlisted
  · rw [if_pos hv]; exact hfilter _
  · rw [if_neg hv]; exact hins _ (hfilter _)

/-- Zeroing a range lists no new address. -/
theorem Memory.within_zeroBelow {m : Memory} {n : Nat} (h : m.within n = true) (k : Nat) :
    (m.zeroBelow k).within n = true := by
  simp only [Memory.within, Memory.zeroBelow, List.all_eq_true] at h ⊢
  exact fun c hc => h c (List.mem_of_mem_filter hc)

/-- The memory a list of bytes gives lists only addresses of its room. -/
theorem Memory.within_ofBytes (a room : Nat) (vs : List Byte) : (Memory.ofBytes a room vs).within (a + room) = true := by
  induction vs generalizing a room with
  | nil => cases room <;> rfl
  | cons v vs ih =>
    cases room with
    | zero => rfl
    | succ room =>
      have h := ih (a + 1) room
      rw [show a + 1 + room = a + (room + 1) by omega] at h
      by_cases hv : v = Memory.unlisted
      · rw [Memory.ofBytes, if_pos hv]; exact h
      · rw [Memory.ofBytes, if_neg hv]
        simp only [Memory.within, List.all_cons, Bool.and_eq_true, decide_eq_true_eq] at h ⊢
        exact ⟨by omega, h⟩

/-- What a byte of the memory a list of bytes gives reads as. -/
theorem Memory.read_ofBytes (a room : Nat) (vs : List Byte) (b : Nat) :
    (Memory.ofBytes a room vs).read b = if a ≤ b ∧ b < a + room then vs.getD (b - a) Memory.unlisted else Memory.unlisted := by
  induction vs generalizing a room with
  | nil => cases room <;> simp [Memory.ofBytes]
  | cons v vs ih =>
    cases room with
    | zero =>
      simp [Memory.ofBytes]
    | succ room =>
      by_cases hv : v = Memory.unlisted
      · rw [Memory.ofBytes, if_pos hv, ih]
        by_cases hb : b = a
        · subst hb
          simp [hv]
        · by_cases hr : a ≤ b ∧ b < a + (room + 1)
          · rw [if_pos (by omega), if_pos hr, show b - a = (b - (a + 1)) + 1 by omega, List.getD_cons_succ]
          · rw [if_neg (by omega), if_neg hr]
      · rw [Memory.ofBytes, if_neg hv, Memory.read_cons, ih]
        by_cases hb : b = a
        · subst hb; simp
        · rw [if_neg hb]
          by_cases hr : a ≤ b ∧ b < a + (room + 1)
          · rw [if_pos (by omega), if_pos hr, show b - a = (b - (a + 1)) + 1 by omega, List.getD_cons_succ]
          · rw [if_neg (by omega), if_neg hr]

theorem Memory.read_below {lo : Nat} {m : Memory} (h : Memory.wfFrom lo m = true) {a : Nat} (ha : a < lo) :
    m.read a = Memory.unlisted := by
  induction m generalizing lo with
  | nil => rfl
  | cons c m ih =>
    obtain ⟨b, u⟩ := c
    simp only [Memory.wfFrom, Bool.and_eq_true, decide_eq_true_eq] at h
    rw [Memory.read_cons, if_neg (by omega)]
    exact ih h.2 (by omega)

/-- In canonical form equal contents are equal data. -/
theorem Memory.eq_of_read_eq {m m' : Memory} (h : m.wf = true) (h' : m'.wf = true) (hr : ∀ a, m.read a = m'.read a) :
    m = m' := by
  suffices key : ∀ (m m' : Memory) (lo : Nat), Memory.wfFrom lo m = true → Memory.wfFrom lo m' = true →
      (∀ a, m.read a = m'.read a) → m = m' from key m m' 0 h h' hr
  clear h h' hr m m'
  intro m
  induction m with
  | nil =>
    intro m' lo _ h' hr
    cases m' with
    | nil => rfl
    | cons c m' =>
      obtain ⟨b, u⟩ := c
      simp only [Memory.wfFrom, Bool.and_eq_true, decide_eq_true_eq] at h'
      have := hr b
      rw [Memory.read_nil, Memory.read_cons, if_pos rfl] at this
      exact absurd this.symm h'.1.2
  | cons c m ih =>
    obtain ⟨a, v⟩ := c
    intro m' lo h h' hr
    simp only [Memory.wfFrom, Bool.and_eq_true, decide_eq_true_eq] at h
    cases m' with
    | nil =>
      have := hr a
      rw [Memory.read_nil, Memory.read_cons, if_pos rfl] at this
      exact absurd this h.1.2
    | cons c' m' =>
      obtain ⟨b, u⟩ := c'
      simp only [Memory.wfFrom, Bool.and_eq_true, decide_eq_true_eq] at h'
      have hab : a = b := by
        rcases Nat.lt_trichotomy a b with hlt | heq | hgt
        · have := hr a
          rw [Memory.read_cons, if_pos rfl, Memory.read_cons, if_neg (by omega),
            Memory.read_below h'.2 (by omega)] at this
          exact absurd this h.1.2
        · exact heq
        · have := hr b
          rw [Memory.read_cons, if_neg (by omega), Memory.read_below h.2 (by omega), Memory.read_cons,
            if_pos rfl] at this
          exact absurd this.symm h'.1.2
      subst hab
      have hvu : v = u := by simpa using hr a
      subst hvu
      have htail : m = m' := ih m' (a + 1) h.2 h'.2 fun d => by
        by_cases hd : d = a
        · subst hd; rw [Memory.read_below h.2 (by omega), Memory.read_below h'.2 (by omega)]
        · have := hr d; simpa [hd] using this
      rw [htail]

end Sys2Proof.Machine
end

