-- ==== Sys2Proof/Laws/Observer.lean ====
section
/-!
SUPPORT. What each operation of the reference observer does, so that claims about what the panel shows cite these and unfold nothing.
-/
namespace Sys2Proof.Machine

section

variable (c : Config) (o : Observer)

@[simp] theorem Observer.watch_nil : o.watch c [] = some o := rfl

/-- The observer takes events one by one. -/
theorem Observer.watch_cons (e : Event) (es : List Event) : o.watch c (e :: es) = (o.see c e).bind (·.watch c es) := by
  simp only [Observer.watch]
  cases o.see c e <;> rfl

/-- A stream in two parts is watched part after part. -/
theorem Observer.watch_append (xs ys : List Event) : o.watch c (xs ++ ys) = (o.watch c xs).bind (·.watch c ys) := by
  induction xs generalizing o with
  | nil => rfl
  | cons e xs ih =>
    rw [List.cons_append, Observer.watch_cons, Observer.watch_cons]
    cases o.see c e with
    | none => rfl
    | some o' => exact ih o'

@[simp] theorem Observer.see_csAssert : o.see c .csAssert = some o := rfl
@[simp] theorem Observer.see_csDeassert : o.see c .csDeassert = some o := rfl
@[simp] theorem Observer.see_cmd (b : Byte) : o.see c (.cmd b) = o.command c b := rfl
@[simp] theorem Observer.see_data (b : Byte) : o.see c (.data b) = o.dataByte c b := rfl

@[simp] theorem Observer.store_dram (b : Byte) :
    (o.store c b).dram = o.dram.write (c.W * o.cp.toNat + o.cc.toNat) b := rfl
@[simp] theorem Observer.store_cc (b : Byte) : (o.store c b).cc = o.cc := rfl
@[simp] theorem Observer.store_cp (b : Byte) : (o.store c b).cp = o.cp := rfl

/-- Before column 255 the column advances by one (R96). -/
theorem Observer.nextColumn_of_ne (h : o.cc ≠ 255#8) : o.nextColumn = o.cc + 1 := if_neg h

/-- A data byte at a cursor on the panel is accepted and written there (R96). -/
theorem Observer.dataByte_onPanel (b : Byte) (hc : o.cc.toNat < c.W) (hp : o.cp.toNat < c.pageCount) :
    o.dataByte c b = some { o.store c b with cc := (o.store c b).nextColumn } := if_pos ⟨hc, hp⟩

/-- A data byte at a cursor off the panel is refused (R96, U17). -/
theorem Observer.dataByte_offPanel (b : Byte) (h : c.W ≤ o.cc.toNat ∨ c.pageCount ≤ o.cp.toNat) : o.dataByte c b = none :=
  if_neg (by omega)

variable {c}

/-- A legal code or'ed with a nibble keeps the code in the high bits (R6, R60). -/
theorem code_of_command {code : Byte} (h : code &&& 0x0F#8 = 0#8) (n : BitVec 4) :
    (code ||| n.setWidth 8) &&& 0xF0#8 = code ∧ (code ||| n.setWidth 8).extractLsb' 0 4 = n := by
  revert n; revert code; decide +kernel

/-- The three commands of a cursor put it at its column and page, wherever it stood, a free column after the last one included (R78,
R96, R61). -/
theorem Observer.watch_cursor (hl : c.Legal) (hd : c.CodesDistinct) (col : Byte) (page : Nat) :
    o.watch c (cursor c col page) = some { o with cc := col, cp := BitVec.ofNat 4 page } := by
  obtain ⟨-, -, hlo, hhi, hpg⟩ := hl
  obtain ⟨hlh, hlp, hhp⟩ := hd
  have nibbles (a b : BitVec 4) : (a ++ b).extractLsb' 0 4 = b := by revert a b; decide +kernel
  have join (v : Byte) : v.extractLsb' 4 4 ++ v.extractLsb' 0 4 = v := by revert v; decide +kernel
  simp [cursor, Observer.watch_cons, Observer.command, colLoByte, colHiByte, pageByte, code_of_command hlo,
    code_of_command hhi, code_of_command hpg, hlh.symm, hlp.symm, hhp.symm, nibbles, join]

end

end Sys2Proof.Machine
end

