-- ==== Sys2Proof/Laws/PerInstr.lean ====
section
/-!
SUPPORT. Statements made per instruction: `OpcodeField` says which code of 30_encoding.md R52 the encoded word carries in bits 63:60.
-/
namespace Sys2Proof.Laws

/-- The opcode of an operation, the first column of R52's table. -/
def opcodeOf : Instr → BitVec 4
  | .setpixel _ _ _ => 1#4
  | .clear => 2#4
  | .sync _ _ _ _ => 3#4
  | .update => 4#4
  | .draw _ _ _ _ => 5#4

/-- The opcode field of an encoded region word (R48). -/
theorem opField_encodeRegion (op : BitVec 4) (x y : Int) (w h : Nat) : opField (encodeRegion op x y w h) = op := by
  simp [opField, encodeRegion, BitVec.extractLsb'_or, extract_place, extract_place_beside]

/-- The word of an operation carries its opcode in bits 63:60. -/
def OpcodeField.Statement (i : Instr) : Prop := opField (encode i) = opcodeOf i

theorem OpcodeField.setpixel (x y : Int) (color : Color) : OpcodeField.Statement (.setpixel x y color) := by
  simp [OpcodeField.Statement, opField, encode, opcodeOf, BitVec.extractLsb'_or, extract_place, extract_place_beside]

theorem OpcodeField.clear : OpcodeField.Statement .clear := by
  simp [OpcodeField.Statement, opField, encode, opcodeOf, extract_place]

theorem OpcodeField.sync (x y : Int) (w h : Nat) : OpcodeField.Statement (.sync x y w h) := opField_encodeRegion 3#4 x y w h

theorem OpcodeField.update : OpcodeField.Statement .update := by
  simp [OpcodeField.Statement, opField, encode, opcodeOf, extract_place]

theorem OpcodeField.draw (x y : Int) (w h : Nat) : OpcodeField.Statement (.draw x y w h) := opField_encodeRegion 5#4 x y w h

end Sys2Proof.Laws
end

