-- ==== Sys2Proof/Laws/Region.lean ====
section
/-!
SUPPORT. The equations of REGION's two loops, one per case, so that proofs about them rewrite and do not unfold.
-/
namespace Sys2Proof.Machine

section

variable (c : Config) (r : Region) (source : Nat → Option Byte)

@[simp] theorem columnRun_nil (k page : Nat) : columnRun c r source k page [] = { events := [], stop := none } := rfl

/-- A column off the panel sends nothing and reads nothing (R79). -/
theorem columnRun_clipped {k page tx : Nat} {txs : List Nat} (h : r.visible c tx = false) :
    columnRun c r source k page (tx :: txs) = columnRun c r source k page txs := by
  simp [columnRun, h]

/-- A column on the panel sends its byte (R80). -/
theorem columnRun_sent {k page tx : Nat} {txs : List Nat} {b : Byte} (h : r.visible c tx = true)
    (hb : source (r.offset k tx) = some b) :
    columnRun c r source k page (tx :: txs) =
      { events := .data b :: (columnRun c r source k page txs).events, stop := (columnRun c r source k page txs).stop } := by
  simp [columnRun, h, hb]

/-- A column on the panel whose offset is past the source stops the region (R81). -/
theorem columnRun_stopped {k page tx : Nat} {txs : List Nat} (h : r.visible c tx = true)
    (hb : source (r.offset k tx) = none) :
    columnRun c r source k page (tx :: txs) =
      { events := [], stop := some { off := r.offset k tx, k := k, tx := tx, page := page } } := by
  simp [columnRun, h, hb]

@[simp] theorem bandRun_nil (page : Nat) : bandRun c r source [] page = { events := [], stop := none } := rfl

/-- A skipped band sends nothing and leaves the page as it is (R77, R82). -/
theorem bandRun_skipped {k : Nat} {ks : List Nat} {page : Nat} (h : r.skipped c k = true) :
    bandRun c r source (k :: ks) page = bandRun c r source ks page := by
  simp [bandRun, h]

/-- A band that is shown whole sends its cursor and its bytes, and advances the page (R78, R82). -/
theorem bandRun_shown {k : Nat} {ks : List Nat} {page : Nat} (h : r.skipped c k = false)
    (hs : (columnRun c r source k page (List.range r.w)).stop = none) :
    bandRun c r source (k :: ks) page =
      { events := cursor c r.startCol page ++ (columnRun c r source k page (List.range r.w)).events ++
          (bandRun c r source ks (page + 1)).events,
        stop := (bandRun c r source ks (page + 1)).stop } := by
  simp [bandRun, h, hs]

/-- A band that runs past the source stops the region (R81). -/
theorem bandRun_stopped {k : Nat} {ks : List Nat} {page : Nat} {o : Overrun} (h : r.skipped c k = false)
    (hs : (columnRun c r source k page (List.range r.w)).stop = some o) :
    bandRun c r source (k :: ks) page =
      { events := cursor c r.startCol page ++ (columnRun c r source k page (List.range r.w)).events, stop := some o } := by
  simp [bandRun, h, hs]

end

end Sys2Proof.Machine
end

