-- ==== Sys2Proof/Laws/State.lean ====
section
/-!
SUPPORT. What each operation over the state leaves in each field, so that no later proof unfolds a record update.
-/
namespace Sys2Proof.Machine

section

/-! `State.emit` (R24). -/

variable (s : State) (evs : List Event)

@[simp] theorem State.emit_cfg : (s.emit evs).cfg = s.cfg := rfl
@[simp] theorem State.emit_fb : (s.emit evs).fb = s.fb := rfl
@[simp] theorem State.emit_phase : (s.emit evs).phase = s.phase := rfl
@[simp] theorem State.emit_seq : (s.emit evs).seq = s.seq := rfl
@[simp] theorem State.emit_csAsserted : (s.emit evs).csAsserted = Sys2Proof.Machine.csAfter evs s.csAsserted := rfl
@[simp] theorem State.emit_cdLevel : (s.emit evs).cdLevel = Sys2Proof.Machine.cdAfter s.cfg evs s.cdLevel := rfl
@[simp] theorem State.emit_out : (s.emit evs).out = s.out ++ evs := rfl
@[simp] theorem State.emit_src : (s.emit evs).src = s.src := rfl
@[simp] theorem State.emit_refusals : (s.emit evs).refusals = s.refusals := rfl
@[simp] theorem State.emit_faults : (s.emit evs).faults = s.faults := rfl
@[simp] theorem State.emit_inputs : (s.emit evs).inputs = s.inputs := rfl
@[simp] theorem State.emit_replies : (s.emit evs).replies = s.replies := rfl
@[simp] theorem State.emit_draws : (s.emit evs).draws = s.draws := rfl

end

section

/-! `State.accept` (R26, R27). -/

variable (s : State) (a : List Byte) (rest : List Input)

@[simp] theorem State.accept_cfg : (s.accept a rest).cfg = s.cfg := rfl
@[simp] theorem State.accept_fb : (s.accept a rest).fb = s.fb := rfl
@[simp] theorem State.accept_phase : (s.accept a rest).phase = .busy := rfl
@[simp] theorem State.accept_seq : (s.accept a rest).seq = s.seq := rfl
@[simp] theorem State.accept_csAsserted : (s.accept a rest).csAsserted = s.csAsserted := rfl
@[simp] theorem State.accept_cdLevel : (s.accept a rest).cdLevel = s.cdLevel := rfl
@[simp] theorem State.accept_out : (s.accept a rest).out = s.out := rfl
@[simp] theorem State.accept_src : (s.accept a rest).src = a := rfl
@[simp] theorem State.accept_refusals : (s.accept a rest).refusals = s.refusals := rfl
@[simp] theorem State.accept_faults : (s.accept a rest).faults = s.faults := rfl
@[simp] theorem State.accept_inputs : (s.accept a rest).inputs = rest := rfl
@[simp] theorem State.accept_replies : (s.accept a rest).replies = s.replies := rfl
@[simp] theorem State.accept_draws : (s.accept a rest).draws = s.draws := rfl

end

section

/-! `State.complete` (R26). -/

variable (s : State)

@[simp] theorem State.complete_cfg : s.complete.cfg = s.cfg := rfl
@[simp] theorem State.complete_fb : s.complete.fb = s.fb := rfl
@[simp] theorem State.complete_phase : s.complete.phase = .idle := rfl
@[simp] theorem State.complete_seq : s.complete.seq = s.seq := rfl
@[simp] theorem State.complete_csAsserted : s.complete.csAsserted = s.csAsserted := rfl
@[simp] theorem State.complete_cdLevel : s.complete.cdLevel = s.cdLevel := rfl
@[simp] theorem State.complete_out : s.complete.out = s.out := rfl
@[simp] theorem State.complete_src : s.complete.src = s.src := rfl
@[simp] theorem State.complete_refusals : s.complete.refusals = s.refusals := rfl
@[simp] theorem State.complete_faults : s.complete.faults = s.faults := rfl
@[simp] theorem State.complete_inputs : s.complete.inputs = s.inputs := rfl
@[simp] theorem State.complete_replies : s.complete.replies = s.replies := rfl
@[simp] theorem State.complete_draws : s.complete.draws = s.draws := rfl

end

section

/-! `State.endRegion` (R22, R26). -/

variable (s : State) (evs : List Event)

@[simp] theorem State.endRegion_cfg : (s.endRegion evs).cfg = s.cfg := rfl
@[simp] theorem State.endRegion_fb : (s.endRegion evs).fb = s.fb := rfl
@[simp] theorem State.endRegion_phase : (s.endRegion evs).phase = .idle := rfl
@[simp] theorem State.endRegion_seq : (s.endRegion evs).seq = .noMeaning s.draws := rfl
@[simp] theorem State.endRegion_csAsserted : (s.endRegion evs).csAsserted = Sys2Proof.Machine.csAfter evs s.csAsserted := rfl
@[simp] theorem State.endRegion_cdLevel : (s.endRegion evs).cdLevel = Sys2Proof.Machine.cdAfter s.cfg evs s.cdLevel := rfl
@[simp] theorem State.endRegion_out : (s.endRegion evs).out = s.out ++ evs := rfl
@[simp] theorem State.endRegion_src : (s.endRegion evs).src = s.src := rfl
@[simp] theorem State.endRegion_refusals : (s.endRegion evs).refusals = s.refusals := rfl
@[simp] theorem State.endRegion_faults : (s.endRegion evs).faults = s.faults := rfl
@[simp] theorem State.endRegion_inputs : (s.endRegion evs).inputs = s.inputs := rfl
@[simp] theorem State.endRegion_replies : (s.endRegion evs).replies = s.replies := rfl
@[simp] theorem State.endRegion_draws : (s.endRegion evs).draws = s.draws + 1 := rfl

end

section

/-! `State.overrun` (R81). -/

variable (s : State) (evs : List Event) (q : Sequencer) (off : Nat)

@[simp] theorem State.overrun_cfg : (s.overrun evs q off).cfg = s.cfg := rfl
@[simp] theorem State.overrun_fb : (s.overrun evs q off).fb = s.fb := rfl
@[simp] theorem State.overrun_phase : (s.overrun evs q off).phase = .busy := rfl
@[simp] theorem State.overrun_seq : (s.overrun evs q off).seq = q := rfl
@[simp] theorem State.overrun_csAsserted : (s.overrun evs q off).csAsserted = Sys2Proof.Machine.csAfter evs s.csAsserted := rfl
@[simp] theorem State.overrun_cdLevel : (s.overrun evs q off).cdLevel = Sys2Proof.Machine.cdAfter s.cfg evs s.cdLevel := rfl
@[simp] theorem State.overrun_out : (s.overrun evs q off).out = s.out ++ evs := rfl
@[simp] theorem State.overrun_src : (s.overrun evs q off).src = s.src := rfl
@[simp] theorem State.overrun_refusals : (s.overrun evs q off).refusals = s.refusals := rfl
@[simp] theorem State.overrun_faults : (s.overrun evs q off).faults = s.faults ++ [.sourceOverrun off] := rfl
@[simp] theorem State.overrun_inputs : (s.overrun evs q off).inputs = s.inputs := rfl
@[simp] theorem State.overrun_replies : (s.overrun evs q off).replies = s.replies := rfl
@[simp] theorem State.overrun_draws : (s.overrun evs q off).draws = s.draws := rfl

end

section

/-! `State.refuse` (R103). -/

variable (s : State) (r : RefusalReason) (rest : List Input)

@[simp] theorem State.refuse_cfg : (s.refuse r rest).cfg = s.cfg := rfl
@[simp] theorem State.refuse_fb : (s.refuse r rest).fb = s.fb := rfl
@[simp] theorem State.refuse_phase : (s.refuse r rest).phase = s.phase := rfl
@[simp] theorem State.refuse_seq : (s.refuse r rest).seq = s.seq := rfl
@[simp] theorem State.refuse_csAsserted : (s.refuse r rest).csAsserted = s.csAsserted := rfl
@[simp] theorem State.refuse_cdLevel : (s.refuse r rest).cdLevel = s.cdLevel := rfl
@[simp] theorem State.refuse_out : (s.refuse r rest).out = s.out := rfl
@[simp] theorem State.refuse_src : (s.refuse r rest).src = s.src := rfl
@[simp] theorem State.refuse_refusals : (s.refuse r rest).refusals = s.refusals ++ [r] := rfl
@[simp] theorem State.refuse_faults : (s.refuse r rest).faults = s.faults := rfl
@[simp] theorem State.refuse_inputs : (s.refuse r rest).inputs = rest := rfl
@[simp] theorem State.refuse_replies : (s.refuse r rest).replies = s.replies := rfl
@[simp] theorem State.refuse_draws : (s.refuse r rest).draws = s.draws := rfl

end

section

/-! `State.answer` (R18, R28). -/

variable (s : State) (r : Reply) (rest : List Input)

@[simp] theorem State.answer_cfg : (s.answer r rest).cfg = s.cfg := rfl
@[simp] theorem State.answer_fb : (s.answer r rest).fb = s.fb := rfl
@[simp] theorem State.answer_phase : (s.answer r rest).phase = s.phase := rfl
@[simp] theorem State.answer_seq : (s.answer r rest).seq = s.seq := rfl
@[simp] theorem State.answer_csAsserted : (s.answer r rest).csAsserted = s.csAsserted := rfl
@[simp] theorem State.answer_cdLevel : (s.answer r rest).cdLevel = s.cdLevel := rfl
@[simp] theorem State.answer_out : (s.answer r rest).out = s.out := rfl
@[simp] theorem State.answer_src : (s.answer r rest).src = s.src := rfl
@[simp] theorem State.answer_refusals : (s.answer r rest).refusals = s.refusals := rfl
@[simp] theorem State.answer_faults : (s.answer r rest).faults = s.faults := rfl
@[simp] theorem State.answer_inputs : (s.answer r rest).inputs = rest := rfl
@[simp] theorem State.answer_replies : (s.answer r rest).replies = s.replies ++ [r] := rfl
@[simp] theorem State.answer_draws : (s.answer r rest).draws = s.draws := rfl

end

section

/-! `State.present` (R26). -/

variable (s : State) (w : CommandWord)

@[simp] theorem State.present_cfg : (s.present w).cfg = s.cfg := rfl
@[simp] theorem State.present_fb : (s.present w).fb = s.fb := rfl
@[simp] theorem State.present_phase : (s.present w).phase = .idle := rfl
@[simp] theorem State.present_seq : (s.present w).seq = s.seq := rfl
@[simp] theorem State.present_csAsserted : (s.present w).csAsserted = s.csAsserted := rfl
@[simp] theorem State.present_cdLevel : (s.present w).cdLevel = s.cdLevel := rfl
@[simp] theorem State.present_out : (s.present w).out = s.out := rfl
@[simp] theorem State.present_src : (s.present w).src = s.src := rfl
@[simp] theorem State.present_refusals : (s.present w).refusals = s.refusals := rfl
@[simp] theorem State.present_faults : (s.present w).faults = s.faults := rfl
@[simp] theorem State.present_inputs : (s.present w).inputs = .command w [] :: s.inputs := rfl
@[simp] theorem State.present_replies : (s.present w).replies = s.replies := rfl
@[simp] theorem State.present_draws : (s.present w).draws = s.draws := rfl

end

section

/-! `State.serveReset` (R29, R115). -/

variable (s : State) (m : List Byte) (rest : List Input)

@[simp] theorem State.serveReset_cfg : (s.serveReset m rest).cfg = s.cfg := rfl
@[simp] theorem State.serveReset_fb : (s.serveReset m rest).fb = Memory.ofBytes 0 s.cfg.bufLen m := rfl
@[simp] theorem State.serveReset_phase : (s.serveReset m rest).phase = .idle := rfl
@[simp] theorem State.serveReset_seq : (s.serveReset m rest).seq = .atReset := rfl
@[simp] theorem State.serveReset_csAsserted : (s.serveReset m rest).csAsserted = false := rfl
@[simp] theorem State.serveReset_cdLevel : (s.serveReset m rest).cdLevel = s.cfg.dataLevel := rfl
@[simp] theorem State.serveReset_out : (s.serveReset m rest).out = [] := rfl
@[simp] theorem State.serveReset_src : (s.serveReset m rest).src = [] := rfl
@[simp] theorem State.serveReset_refusals : (s.serveReset m rest).refusals = s.refusals := rfl
@[simp] theorem State.serveReset_faults : (s.serveReset m rest).faults = s.faults := rfl
@[simp] theorem State.serveReset_inputs : (s.serveReset m rest).inputs = rest := rfl
@[simp] theorem State.serveReset_replies : (s.serveReset m rest).replies = s.replies := rfl
@[simp] theorem State.serveReset_draws : (s.serveReset m rest).draws = s.draws := rfl

end

section

/-! `State.paintPixel` (R63, R64): only the Frame Buffer changes. -/

variable (s : State) (x y : Int) (color : Color)

/-- Off the buffer nothing changes (R64). -/
theorem State.paintPixel_off (h : ¬OnPanel s.cfg x y) : s.paintPixel x y color = s := if_neg h

/-- The Frame Buffer after painting a pixel on it (R63). -/
theorem State.paintPixel_on (h : OnPanel s.cfg x y) :
    s.paintPixel x y color =
      { s with fb := s.fb.write (pixelIndex s.cfg x y)
                 (paint color (pixelMask y) (s.fb.read (pixelIndex s.cfg x y))) } := if_pos h

@[simp] theorem State.paintPixel_cfg : (s.paintPixel x y color).cfg = s.cfg := by
  unfold State.paintPixel; split <;> rfl

@[simp] theorem State.paintPixel_phase : (s.paintPixel x y color).phase = s.phase := by
  unfold State.paintPixel; split <;> rfl

@[simp] theorem State.paintPixel_seq : (s.paintPixel x y color).seq = s.seq := by
  unfold State.paintPixel; split <;> rfl

@[simp] theorem State.paintPixel_csAsserted : (s.paintPixel x y color).csAsserted = s.csAsserted := by
  unfold State.paintPixel; split <;> rfl

@[simp] theorem State.paintPixel_cdLevel : (s.paintPixel x y color).cdLevel = s.cdLevel := by
  unfold State.paintPixel; split <;> rfl

@[simp] theorem State.paintPixel_out : (s.paintPixel x y color).out = s.out := by
  unfold State.paintPixel; split <;> rfl

@[simp] theorem State.paintPixel_src : (s.paintPixel x y color).src = s.src := by
  unfold State.paintPixel; split <;> rfl

@[simp] theorem State.paintPixel_refusals : (s.paintPixel x y color).refusals = s.refusals := by
  unfold State.paintPixel; split <;> rfl

@[simp] theorem State.paintPixel_faults : (s.paintPixel x y color).faults = s.faults := by
  unfold State.paintPixel; split <;> rfl

@[simp] theorem State.paintPixel_inputs : (s.paintPixel x y color).inputs = s.inputs := by
  unfold State.paintPixel; split <;> rfl

@[simp] theorem State.paintPixel_replies : (s.paintPixel x y color).replies = s.replies := by
  unfold State.paintPixel; split <;> rfl

@[simp] theorem State.paintPixel_draws : (s.paintPixel x y color).draws = s.draws := by
  unfold State.paintPixel; split <;> rfl

end

/-! The lines over a run of events (R24). -/

@[simp] theorem csAfter_nil (l : Bool) : csAfter [] l = l := rfl
@[simp] theorem csAfter_cons (e : Event) (evs : List Event) (l : Bool) : csAfter (e :: evs) l = csAfter evs (e.csAfter l) := rfl
@[simp] theorem csAfter_append (as bs : List Event) (l : Bool) : csAfter (as ++ bs) l = csAfter bs (csAfter as l) :=
  List.foldl_append
@[simp] theorem cdAfter_nil (c : Config) (l : Bool) : cdAfter c [] l = l := rfl
@[simp] theorem cdAfter_cons (c : Config) (e : Event) (evs : List Event) (l : Bool) :
    cdAfter c (e :: evs) l = cdAfter c evs (e.cdAfter c l) := rfl
@[simp] theorem cdAfter_append (c : Config) (as bs : List Event) (l : Bool) :
    cdAfter c (as ++ bs) l = cdAfter c bs (cdAfter c as l) := List.foldl_append

/-- A run of events from a line at the data level leaves it there (R23, R24). -/
theorem cdAfter_dataLevel (c : Config) (evs : List Event) : cdAfter c evs c.dataLevel = c.dataLevel := by
  induction evs with
  | nil => rfl
  | cons e evs ih => cases e <;> exact ih

end Sys2Proof.Machine
end

