-- ==== Sys2Proof/Laws/Step.lean ====
section
/-!
SUPPORT. What a meaning and a step can do, said once: the provers cite these and do not unfold the machine.
-/
namespace Sys2Proof.Machine

/-- SETPIXEL completes in every state (R63, R64). -/
theorem exec_setpixel (x y : Int) (color : Color) (s : State) :
    exec (.setpixel x y color) s = .next (s.paintPixel x y color).complete := rfl

/-- CLEAR completes in every state (R67). -/
theorem exec_clear (s : State) :
    exec .clear s = .next { s with fb := s.fb.zeroBelow s.cfg.bufLen, phase := .idle } := rfl

/-- SYNC is a region operation over the Frame Buffer (R90). -/
theorem exec_sync (x y : Int) (w h : Nat) (s : State) :
    exec (.sync x y w h) s = s.runRegion { x := x, y := y, w := w, h := h } s.fbSource := rfl

/-- UPDATE is a region operation over the Frame Buffer (R92). -/
theorem exec_update (s : State) : exec .update s = s.runRegion (Region.wholePanel s.cfg) s.fbSource := rfl

/-- DRAW is a region operation over the presented array (R94). -/
theorem exec_draw (x y : Int) (w h : Nat) (s : State) :
    exec (.draw x y w h) s = s.runRegion { x := x, y := y, w := w, h := h } s.srcSource := rfl

/-- A region operation that meets no overrun ends with REGION's events sent (R71). -/
theorem State.runRegion_next {s : State} {r : Region} {source : Nat → Option Byte}
    (h : (regionRun s.cfg r source).stop = none) :
    s.runRegion r source = .next (s.endRegion (regionRun s.cfg r source).events) := by
  simp [State.runRegion, h]

/-- A region operation that meets an overrun stops in the fault (R81). -/
theorem State.runRegion_fault {s : State} {r : Region} {source : Nat → Option Byte} {o : Overrun}
    (h : (regionRun s.cfg r source).stop = some o) :
    s.runRegion r source =
      .fault (.sourceOverrun o.off (s.overrun (regionRun s.cfg r source).events (o.sequencer r) o.off)) := by
  simp [State.runRegion, h]

/-- Everything a region operation can answer. -/
theorem State.runRegion_cases (s : State) (r : Region) (source : Nat → Option Byte) :
    ((regionRun s.cfg r source).stop = none ∧
      s.runRegion r source = .next (s.endRegion (regionRun s.cfg r source).events)) ∨
    ∃ o, (regionRun s.cfg r source).stop = some o ∧
      s.runRegion r source =
        .fault (.sourceOverrun o.off (s.overrun (regionRun s.cfg r source).events (o.sequencer r) o.off)) := by
  cases h : (regionRun s.cfg r source).stop with
  | none => exact .inl ⟨rfl, State.runRegion_next h⟩
  | some o => exact .inr ⟨o, rfl, State.runRegion_fault h⟩

/-- Everything a dimension read can do (R18, R104). -/
theorem State.serveDim_cases (s : State) (n : Nat) (rest : List Input) :
    (∃ v, s.dimension n = some v ∧ s.serveDim n rest = s.answer (.dim n v) rest) ∨
    (s.dimension n = none ∧ s.serveDim n rest = s.refuse .portRange rest) := by
  unfold State.serveDim
  cases s.dimension n with
  | none => exact .inr ⟨rfl, rfl⟩
  | some v => exact .inl ⟨v, rfl, rfl⟩

/-- Everything a buffer read can do (R28, R104). -/
theorem State.serveBuf_cases (s : State) (i : Nat) (rest : List Input) :
    (i < s.cfg.bufLen ∧ s.serveBuf i rest = s.answer (.byte i (s.fb.read i)) rest) ∨
    (s.cfg.bufLen ≤ i ∧ s.serveBuf i rest = s.refuse .portRange rest) := by
  unfold State.serveBuf
  by_cases h : i < s.cfg.bufLen
  · exact .inl ⟨h, if_pos h⟩
  · exact .inr ⟨by omega, if_neg h⟩

/-- Everything a step can do: wait with nothing presented, hold what is presented to a busy block, run a word or refuse it, serve a
port read, take a reset. -/
theorem step_cases (s : State) :
    (s.inputs = [] ∧ step s = .next s) ∨
    (s.phase = .busy ∧ step s = .next s) ∨
    (∃ word src rest i, s.inputs = .command word src :: rest ∧ s.phase = .idle ∧ decode word = .ok i ∧
      step s = exec i (s.accept src rest)) ∨
    (∃ word src rest reason, s.inputs = .command word src :: rest ∧ s.phase = .idle ∧ decode word = .error reason ∧
      step s = .next (s.refuse reason rest)) ∨
    (∃ n rest, s.inputs = .readDim n :: rest ∧ step s = .next (s.serveDim n rest)) ∨
    (∃ i rest, s.inputs = .readBuf i :: rest ∧ s.phase = .idle ∧ step s = .next (s.serveBuf i rest)) ∨
    (∃ fbInit rest, s.inputs = .reset fbInit :: rest ∧ step s = .next (s.serveReset fbInit rest)) := by
  unfold step State.takeInput
  cases hin : s.inputs with
  | nil => exact .inl ⟨rfl, rfl⟩
  | cons input rest =>
    cases input with
    | command word src =>
      cases hp : s.phase with
      | busy => exact .inr (.inl ⟨rfl, rfl⟩)
      | idle =>
        cases hd : decode word with
        | ok i => exact .inr (.inr (.inl ⟨word, src, rest, i, rfl, rfl, hd, by simp [State.runWord, hd]⟩))
        | error e => exact .inr (.inr (.inr (.inl ⟨word, src, rest, e, rfl, rfl, hd, by simp [State.runWord, hd]⟩)))
    | readDim n => exact .inr (.inr (.inr (.inr (.inl ⟨n, rest, rfl, rfl⟩))))
    | readBuf i =>
      cases hp : s.phase with
      | busy => exact .inr (.inl ⟨rfl, rfl⟩)
      | idle => exact .inr (.inr (.inr (.inr (.inr (.inl ⟨i, rest, rfl, rfl, rfl⟩)))))
    | reset m => exact .inr (.inr (.inr (.inr (.inr (.inr ⟨m, rest, rfl, rfl⟩)))))

end Sys2Proof.Machine
end

