-- ==== Sys2Proof/Tests/Slice0.lean ====
section
/-!
SUPPORT. Small tests whose expected results come from spec/ (each names its vector or rule), and for each statement of
Certificates/Slice0/Obligations.lean that has hypotheses a witness that meets them all, at a boundary value of each clause.
-/
namespace Sys2Proof.Tests

open Sys2Proof Sys2Proof.Machine

/-! ## Helpers -/

/-- The next state of an outcome. -/
def nextOf : Host.Outcome State Fault Refusal → Option State
  | .next s => some s
  | .fault _ => none
  | .refused _ => none

/-- The fault of an outcome: its offset and the state it leaves. -/
def faultOf : Host.Outcome State Fault Refusal → Option (Nat × State)
  | .next _ => none
  | .fault (.sourceOverrun off left) => some (off, left)
  | .refused _ => none

/-- The default machine of R6 with a Frame Buffer, something presented, and an array on the source read port. -/
def machine (fb : Memory) (src : List Byte) (inputs : List Input) : State :=
  { State.reset with fb := fb, src := src, inputs := inputs }

/-- A small legal panel of 4 columns and 2 pages. -/
def smallConfig : Config := { defaultConfig with W := 4, H := 16 }

/-- The largest legal panel, with the other setting of each open parameter. -/
def largeConfig : Config := { defaultConfig with W := 256, H := 128, vclip := .topRow, cdCmdLevel := true }

/-- A small machine, idle, with some bytes set. -/
def small : State := { State.resetWith smallConfig [0x5A#8, 0x00#8, 0x81#8] with src := [1#8, 2#8, 3#8, 4#8, 5#8, 6#8] }

/-- The small machine with something presented. -/
def presented (inputs : List Input) : State := { small with inputs := inputs }

/-! ## Well-formedness: each check refuses a term outside its range (R7, R58) -/

theorem test_wf_coordinate_ranges :
    (Instr.setpixel 32768 0 .foreground).wellFormed = false ∧ (Instr.setpixel (-32769) 0 .foreground).wellFormed = false ∧
    (Instr.setpixel 0 32768 .foreground).wellFormed = false ∧ (Instr.setpixel 0 (-32769) .foreground).wellFormed = false ∧
    (Instr.sync 32768 0 0 0).wellFormed = false ∧ (Instr.sync 0 (-32769) 0 0).wellFormed = false ∧
    (Instr.draw (-32769) 0 0 0).wellFormed = false ∧ (Instr.draw 0 32768 0 0).wellFormed = false := by decide

theorem test_wf_extent_ranges :
    (Instr.sync 0 0 256 0).wellFormed = false ∧ (Instr.sync 0 0 0 256).wellFormed = false ∧
    (Instr.draw 0 0 256 0).wellFormed = false ∧ (Instr.draw 0 0 0 256).wellFormed = false := by decide

theorem test_assembler_refuses_what_does_not_fit :
    assemble (.sync 0 0 256 8) = none ∧ assemble (.setpixel 5 10 .foreground) = some 0x10000001000A0005#64 := by decide

/-! ## Decoding, by words written out from the formats R47 to R49 -/

/-- E-9, and P-16 with its color 0: `0001 | 26 zeros | CC | Y | X`. -/
theorem test_decode_setpixel :
    decode 0x10000002FFFFFFFF#64 = .ok (.setpixel (-1) (-1) .inverse) ∧
    decode 0x1000000000090005#64 = .ok (.setpixel 5 9 .background) := by decide

/-- C-1. -/
theorem test_decode_clear : decode 0x2000000000000000#64 = .ok .clear := by decide

/-- E-10, and S-4 with four different operands. -/
theorem test_decode_sync :
    decode 0x300040FF00000000#64 = .ok (.sync 0 0 255 64) ∧ decode 0x3000100300100008#64 = .ok (.sync 8 16 3 16) := by decide

/-- U-1. -/
theorem test_decode_update : decode 0x4000000000000000#64 = .ok .update := by decide

/-- E-11. -/
theorem test_decode_draw : decode 0x50001004FFFDFFFD#64 = .ok (.draw (-3) (-3) 4 16) := by decide

/-- E-1 to E-8, and a word with both COLOR 3 and a reserved bit (R57's order). -/
theorem test_decode_refusals :
    decode 0x0000000000000000#64 = .error .reservedOpcode ∧ decode 0x6000000000000000#64 = .error .reservedOpcode ∧
    decode 0xF000000000000000#64 = .error .reservedOpcode ∧ decode 0x1000000400000000#64 = .error .reservedBits ∧
    decode 0x1000000300000000#64 = .error .reservedColor ∧ decode 0x2000000000000001#64 = .error .reservedBits ∧
    decode 0x3001000000000000#64 = .error .reservedBits ∧ decode 0x4800000000000000#64 = .error .reservedBits ∧
    decode 0x1800000300000000#64 = .error .reservedBits := by decide

/-- The field split of D-2's word: `OP = 5`, `RH = 8`, `RW = 4`, `Y = 0`, `X = 0xFFFE`. -/
theorem test_encode_draw : encode (.draw (-2) 0 4 8) = 0x500008040000FFFE#64 := by decide

/-- R58's written form. -/
theorem test_asm_text :
    asmText "SRC" (.setpixel 5 10 .foreground) = "SETPIXEL 5, 10, FG" ∧ asmText "SRC" (.draw (-3) (-3) 4 16) = "DRAW -3, -3, 4, 16, @SRC" := by
  decide +kernel

/-! ## The operations -/

/-- P-14: Inverse where bit 2 was 0. -/
theorem test_setpixel_inverse :
    (nextOf (step (machine [(133, 0x5A#8)] [] [.command 0x10000002000A0005#64 []]))).map (·.fb) = some [(133, 0x5E#8)] := by
  decide +kernel

/-- P-10: far off the panel, with a negative column. -/
theorem test_setpixel_clipped :
    (nextOf (step (machine [(133, 0x5A#8)] [] [.command 0x100000017FFF8000#64 []]))).map (fun s => (s.fb, s.out, s.phase)) =
      some ([(133, 0x5A#8)], [], .idle) := by decide +kernel

/-- C-1 on some bytes. -/
theorem test_clear :
    (nextOf (step (machine [(0, 0x77#8), (133, 0x77#8), (1023, 0x77#8)] [] [.command 0x2000000000000000#64 []]))).map
      (fun s => (s.fb, s.out)) = some ([], []) := by decide +kernel

/-- S-2: band 1 reads `FB[4..7]`, page length `w`. -/
theorem test_sync_page_length :
    (nextOf (step (machine [(1, 1#8), (2, 2#8), (3, 3#8), (4, 4#8), (5, 5#8), (6, 6#8), (7, 7#8)] []
      [.command 0x3000100400000000#64 []]))).map (·.out) =
    some [.csAssert, .cmd 0x00#8, .cmd 0x10#8, .cmd 0xB0#8, .data 0#8, .data 1#8, .data 2#8, .data 3#8,
          .cmd 0x00#8, .cmd 0x10#8, .cmd 0xB1#8, .data 4#8, .data 5#8, .data 6#8, .data 7#8, .csDeassert] := by
  decide +kernel

/-- L1-7: `y = -3`, `h = 8` skips the band. -/
theorem test_sync_top_clip :
    (nextOf (step (machine [] [] [.command 0x30000802FFFD0000#64 []]))).map (·.out) = some [.csAssert, .csDeassert] := by
  decide +kernel

/-- R93 on a panel of 4 columns and 2 pages: `2 + 2*(3 + 4)` events. -/
theorem test_update :
    (nextOf (step (presented [.command 0x4000000000000000#64 []]))).map (·.out) =
    some [.csAssert, .cmd 0x00#8, .cmd 0x10#8, .cmd 0xB0#8, .data 0x5A#8, .data 0x00#8, .data 0x81#8, .data 0x00#8,
          .cmd 0x00#8, .cmd 0x10#8, .cmd 0xB1#8, .data 0x00#8, .data 0x00#8, .data 0x00#8, .data 0x00#8, .csDeassert] := by
  decide +kernel

/-- D-17: the fault, what it leaves, and the first offset it carries. -/
theorem test_draw_overrun :
    (faultOf (step (machine [] [] [.command 0x5000100400000000#64 [1#8, 2#8, 3#8, 4#8, 5#8, 6#8]]))).map
      (fun p => (p.1, p.2.out, p.2.csAsserted, p.2.faults)) =
    some (6, [.csAssert, .cmd 0x00#8, .cmd 0x10#8, .cmd 0xB0#8, .data 1#8, .data 2#8, .data 3#8, .data 4#8,
              .cmd 0x00#8, .cmd 0x10#8, .cmd 0xB1#8, .data 5#8, .data 6#8], true, [.sourceOverrun 6]) := by
  decide +kernel

/-- D-9 and D-9T: the one case where the two settings of `VCLIP_RULE` differ. -/
theorem test_draw_clip_rules :
    (nextOf (step (machine [] [] [.command 0x50000802003C0000#64 [0x10#8, 0x11#8]]))).map (·.out) =
      some [.csAssert, .csDeassert] ∧
    (nextOf (step { machine [] [] [.command 0x50000802003C0000#64 [0x10#8, 0x11#8]] with
      cfg := { defaultConfig with vclip := .topRow } })).map (·.out) =
      some [.csAssert, .cmd 0x00#8, .cmd 0x10#8, .cmd 0xB7#8, .data 0x10#8, .data 0x11#8, .csDeassert] := by
  decide +kernel

/-! ## The machine -/

/-- A refused word leaves its mark and the next word runs (95_test_vectors.md Program 4, words 2 and 3). -/
theorem test_refused_word_does_not_stop_the_run :
    (nextOf (Host.Core.run Sys2Proof.core 2
      (machine [] [] [.command 0x1000000300010001#64 [], .command 0x1000000100010001#64 []]))).map
        (fun s => (s.refusals, s.fb)) = some ([.reservedColor], [(1, 0x02#8)]) := by
  decide +kernel

/-- L1-1 through the dimension read port. -/
theorem test_dimension_reads :
    (nextOf (Host.Core.run Sys2Proof.core 4 (machine [] [] [.readDim 0, .readDim 1, .readDim 2, .readDim 3]))).map (·.replies) =
      some [.dim 0 128, .dim 1 64, .dim 2 8, .dim 3 1024] := by decide +kernel

/-- O-1: what the observer makes of D-5's stream. -/
theorem test_observer :
    (Observer.watch defaultConfig { dram := [], cc := 7, cp := 3 }
      [.csAssert, .cmd 0x00#8, .cmd 0x10#8, .cmd 0xB0#8, .data 0x12#8, .data 0x13#8, .csDeassert]).map (·.dram) =
      some [(0, 0x12#8), (1, 0x13#8)] := by decide

/-- Column 255 of a panel of 256 columns takes its byte, and a new cursor places the next one whatever the column then was (R96, R97). -/
theorem test_observerLastColumn :
    (Observer.watch largeConfig { dram := [], cc := 0, cp := 0 }
      ((cursor largeConfig 255#8 0 ++ [.data 0x12#8]) ++ (cursor largeConfig 255#8 1 ++ [.data 0x13#8]))).map (·.dram) =
      some [(255, 0x12#8), (511, 0x13#8)] := by
  have hl : largeConfig.Legal := by decide
  have hd : largeConfig.CodesDistinct := by decide
  simp only [Observer.watch_append, Observer.watch_cursor _ hl hd, Option.bind_some]
  decide

/-- A word placed by `withFetchWord` is what the next step runs, for every row of the opcode table. -/
theorem test_placed_words_run :
    ((nextOf (step (State.reset.withFetchWord 64 0x10000001000A0005))).map (·.fb) = some [(133, 0x04#8)]) ∧
    ((nextOf (step (State.reset.withFetchWord 64 0x2000000000000000))).map (·.inputs) = some []) ∧
    ((nextOf (step (State.reset.withFetchWord 64 0x3000000000000000))).map (·.out) = some [.csAssert, .csDeassert]) ∧
    ((nextOf (step (State.reset.withFetchWord 64 0x4000000000000000))).isSome = true) ∧
    ((nextOf (step (State.reset.withFetchWord 64 0x5000000000000000))).map (·.out) = some [.csAssert, .csDeassert]) := by
  decide +kernel

/-! ## Witnesses: states and operands that meet the hypotheses of each statement, clause by clause -/

theorem witness_decodeOfEncode :
    (Instr.setpixel (-32768) 32767 .inverse).WellFormed ∧ Instr.clear.WellFormed ∧
    (Instr.sync 32767 (-32768) 255 0).WellFormed ∧ Instr.update.WellFormed ∧ (Instr.draw (-1) (-1) 0 255).WellFormed := by decide

theorem witness_encodeOfDecode : decode 0x5000FFFF80007FFF#64 = .ok (.draw 32767 (-32768) 255 255) := by decide

theorem witness_matchAndMask_reserved :
    (0x0FFFFFFFFFFFFFFF#64).extractLsb' 60 4 = 0x0#4 ∧ 0x6#4 ≤ (0x6000000000000000#64).extractLsb' 60 4 := by decide

theorem witness_reservedOpcode :
    (presented [.command 0x6000000000000000#64 []]).phase = .idle ∧
    (presented [.command 0x6000000000000000#64 []]).inputs = [.command 0x6000000000000000#64 []] ∧
    ((0x6000000000000000#64).extractLsb' 60 4 = 0x0#4 ∨ 0x6#4 ≤ (0x6000000000000000#64).extractLsb' 60 4) := by decide

/-- One word per clause, each with the lowest or the highest reserved bit of its format set. -/
theorem witness_reservedBits :
    ((0x1000000400000000#64).extractLsb' 60 4 = 1#4 ∧ (0x1000000400000000#64).extractLsb' 34 26 ≠ 0#26) ∧
    ((0x2000000000000001#64).extractLsb' 60 4 = 2#4 ∧ (0x2000000000000001#64).extractLsb' 0 60 ≠ 0#60) ∧
    ((0x4800000000000000#64).extractLsb' 60 4 = 4#4 ∧ (0x4800000000000000#64).extractLsb' 0 60 ≠ 0#60) ∧
    ((0x3001000000000000#64).extractLsb' 60 4 = 3#4 ∧ (0x3001000000000000#64).extractLsb' 48 12 ≠ 0#12) ∧
    ((0x5800000000000000#64).extractLsb' 60 4 = 5#4 ∧ (0x5800000000000000#64).extractLsb' 48 12 ≠ 0#12) ∧
    (presented [.command 0x5800000000000000#64 []]).phase = .idle := by decide

theorem witness_reservedColor :
    (presented [.command 0x1000000300000000#64 []]).phase = .idle ∧
    (0x1000000300000000#64).extractLsb' 60 4 = 1#4 ∧ (0x1000000300000000#64).extractLsb' 32 2 = 3#2 ∧
    (0x1800000300000000#64).extractLsb' 60 4 = 1#4 ∧ (0x1800000300000000#64).extractLsb' 32 2 = 3#2 := by decide

theorem witness_updateIsTheFullSync :
    (small.cfg.Legal ∧ small.cfg.W ≤ 255) ∧ (largeConfig.Legal ∧ largeConfig.W = 256) := by decide

/-- The four corners of the buffer (P-1 to P-4, on the default panel). -/
theorem witness_setPixel_on :
    State.reset.cfg.Legal ∧ State.reset.fb.wf = true ∧
    (0 : Int) ≤ 127 ∧ (127 : Int) < State.reset.cfg.W ∧ (0 : Int) ≤ 63 ∧ (63 : Int) < State.reset.cfg.H ∧
    (0 : Int) < State.reset.cfg.W ∧ (0 : Int) < State.reset.cfg.H := by decide

/-- One coordinate per clause, just off the buffer (P-6 to P-9). -/
theorem witness_setPixel_off :
    (-1 : Int) < 0 ∧ (State.reset.cfg.W : Int) ≤ 128 ∧ (State.reset.cfg.H : Int) ≤ 64 := by decide

/-- The runs the laws of SETPIXEL speak of, on the buffer and with two pixels of one byte. -/
theorem witness_setPixelLaws :
    small.fb.wf = true ∧ (0 : Int) ≤ 3 ∧ (3 : Int) < small.cfg.W ∧ (0 : Int) ≤ 15 ∧ (15 : Int) < small.cfg.H ∧
    (∃ s₁ s₂, exec (.setpixel 3 15 .foreground) small = .next s₁ ∧ exec (.setpixel 3 14 .inverse) s₁ = .next s₂) ∧
    ((3 : Int) ≠ 3 ∨ (15 : Int) ≠ 14) :=
  ⟨by decide, by decide, by decide, by decide, by decide, ⟨_, _, rfl, rfl⟩, by decide⟩

theorem witness_clear : ∃ s₁, exec .clear small = .next s₁ ∧ small.cfg.Legal ∧ small.fb.wf = true :=
  ⟨_, rfl, by decide, by decide⟩

/-- A region with columns off the panel on both sides, on legal parameters. -/
theorem witness_columnsOnThePanel :
    smallConfig.Legal ∧ largeConfig.Legal ∧ 0 < Region.columnCount smallConfig { x := -2, y := 0, w := 8, h := 8 } := by decide

/-- A shown band at the last page, in both settings of `VCLIP_RULE`. -/
theorem witness_shownBand :
    (smallConfig.Legal ∧ 1 < Region.bandCount { x := 0, y := 0, w := 4, h := 16 } ∧
      Region.skipped smallConfig { x := 0, y := 0, w := 4, h := 16 } 1 = false) ∧
    (largeConfig.Legal ∧ 0 < Region.bandCount { x := 0, y := 127, w := 4, h := 8 } ∧
      Region.skipped largeConfig { x := 0, y := 127, w := 4, h := 8 } 0 = false) := by decide

/-- Both answers of the clip rules: D-9's band, where they differ, and one they both keep. -/
theorem witness_clipRules :
    0 < Region.bandCount { x := 0, y := 60, w := 2, h := 8 } ∧
    Region.skipped { defaultConfig with vclip := .anyRow } { x := 0, y := 60, w := 2, h := 8 } 0 ≠
      Region.skipped { defaultConfig with vclip := .topRow } { x := 0, y := 60, w := 2, h := 8 } 0 ∧
    Region.skipped { defaultConfig with vclip := .topRow } { x := 0, y := 64, w := 2, h := 8 } 0 = true := by decide

/-- A SYNC, an UPDATE and a DRAW that read nothing past their source, the SYNC and the DRAW up to its last byte, the SYNC clipped on
the left and at the bottom. -/
theorem witness_regionCompletes :
    (RegionOperation (.sync (-1) (-8) 4 24) small { x := -1, y := -8, w := 4, h := 24 } small.cfg.bufLen small.fb.read ∧
      ¬Region.NoOverrun small.cfg { x := -1, y := -8, w := 4, h := 24 } small.cfg.bufLen ∧
      RegionOperation (.sync 0 0 4 16) small { x := 0, y := 0, w := 4, h := 16 } small.cfg.bufLen small.fb.read ∧
      Region.NoOverrun small.cfg { x := 0, y := 0, w := 4, h := 16 } small.cfg.bufLen) ∧
    (RegionOperation .update small { x := 0, y := 0, w := 4, h := 16 } small.cfg.bufLen small.fb.read) ∧
    (RegionOperation (.draw (-1) 0 3 16) small { x := -1, y := 0, w := 3, h := 16 } small.src.length
        (fun off => small.src.getD off 0) ∧
      Region.NoOverrun small.cfg { x := -1, y := 0, w := 3, h := 16 } small.src.length) := by
  refine ⟨⟨.inl ⟨rfl, rfl, rfl⟩, ?_, .inl ⟨rfl, rfl, rfl⟩, ?_⟩, .inr (.inl ⟨rfl, rfl, rfl, rfl⟩), .inr (.inr ⟨rfl, rfl, rfl⟩), ?_⟩
  · intro h
    exact absurd (h 2 (by decide) (by decide) 1 (by decide) (by decide)) (by decide)
  · exact (by decide : ∀ k, k < 2 → Region.skipped small.cfg { x := 0, y := 0, w := 4, h := 16 } k = false →
      ∀ tx, tx < 4 → Region.visible small.cfg { x := 0, y := 0, w := 4, h := 16 } tx = true → 4 * k + tx < 8)
  · exact (by decide : ∀ k, k < 2 → Region.skipped small.cfg { x := -1, y := 0, w := 3, h := 16 } k = false →
      ∀ tx, tx < 3 → Region.visible small.cfg { x := -1, y := 0, w := 3, h := 16 } tx = true → 3 * k + tx < 6)

/-- A DRAW that reads past its array, and the fault it answers. -/
theorem witness_regionFaults :
    RegionOperation (.draw 0 0 4 16) small { x := 0, y := 0, w := 4, h := 16 } small.src.length (fun off => small.src.getD off 0) ∧
    ¬Region.NoOverrun small.cfg { x := 0, y := 0, w := 4, h := 16 } small.src.length ∧
    ∃ left, exec (.draw 0 0 4 16) small = .fault (.sourceOverrun 6 left) := by
  refine ⟨.inr (.inr ⟨rfl, rfl, rfl⟩), ?_, _, rfl⟩
  intro h
  exact absurd (h 1 (by decide) (by decide) 2 (by decide) (by decide)) (by decide)

/-- A region operation that completes with every band skipped, and one that completes with bands shown. -/
theorem witness_oneBurst :
    (∃ t, exec (.sync 0 (-3) 2 8) small = .next t ∧
      ∀ k, k < 1 → Region.skipped small.cfg { x := 0, y := -3, w := 2, h := 8 } k = true) ∧
    (∃ t, exec .update small = .next t) :=
  ⟨⟨_, rfl, by decide⟩, _, rfl⟩

/-- The whole small panel lies inside itself, and the source is just long enough. -/
theorem witness_regionInside :
    small.cfg.Legal ∧ (0 : Int) ≤ 0 ∧ (0 : Int) + (4 : Nat) ≤ small.cfg.W ∧ (0 : Int) + (16 : Nat) ≤ small.cfg.H ∧
    4 * ((16 + 7) / 8) ≤ small.cfg.bufLen := by decide

/-- Two machines whose arrays agree at the shown offsets and differ beyond them. -/
theorem witness_drawDependsOnly :
    let s' := { small with src := [9#8, 2#8, 3#8], fb := [] }
    small.cfg = s'.cfg ∧
    ∀ k, k < Region.bandCount { x := -1, y := 0, w := 3, h := 8 } →
      Region.skipped small.cfg { x := -1, y := 0, w := 3, h := 8 } k = false → ∀ tx, tx < 3 →
      Region.visible small.cfg { x := -1, y := 0, w := 3, h := 8 } tx = true →
      small.src[3 * k + tx]? = s'.src[3 * k + tx]? := by decide

/-- One boundary value for each of the six corner cases. -/
theorem witness_clippedRegions :
    (small.cfg.H : Int) ≤ 16 ∧ (-8 : Int) + (8 : Nat) ≤ 0 ∧ (small.cfg.W : Int) ≤ 4 ∧ (-4 : Int) + (4 : Nat) ≤ 0 ∧
    RegionOperation (.sync 4 16 0 0) small { x := 4, y := 16, w := 0, h := 0 } small.cfg.bufLen small.fb.read :=
  ⟨by decide, by decide, by decide, by decide, .inl ⟨rfl, rfl, rfl⟩⟩

theorem witness_legalParameters : defaultConfig.Legal ∧ smallConfig.Legal ∧ largeConfig.Legal := by decide

theorem witness_boundedStreams :
    ∃ t, exec (.draw 0 16 255 255) small = .next t ∧ small.cfg.Legal ∧ (Instr.draw 0 16 255 255).WellFormed :=
  ⟨_, rfl, by decide, by decide⟩

/-- A region that shows one column, the byte it covers, and one it does not. -/
theorem witness_panelShowsTheRegion :
    (∃ t, exec (.draw (-2) (-8) 3 16) small = .next t) ∧ small.cfg.Legal ∧ small.cfg.CodesDistinct ∧
    Region.Covers small.cfg { x := -2, y := -8, w := 3, h := 16 } 1 2 0 0 ∧
    ∀ k tx, ¬Region.Covers small.cfg { x := -2, y := -8, w := 3, h := 16 } k tx 1 3 := by
  refine ⟨⟨_, rfl⟩, by decide, by decide, ⟨⟨by decide, by decide⟩, ⟨by decide, by decide⟩, by decide, by decide⟩, ?_⟩
  rintro k tx ⟨-, ⟨htx, -⟩, -, hcol⟩
  have : tx < 3 := htx
  have : (3 : Int) = -2 + (tx : Int) := hcol
  omega

theorem witness_stepRuns :
    (presented [.command 0x10000001000A0003#64 [7#8]]).phase = .idle ∧
    (presented [.command 0x10000001000A0003#64 [7#8]]).inputs = [.command 0x10000001000A0003#64 [7#8]] ∧
    decode 0x10000001000A0003#64 = .ok (.setpixel 3 10 .foreground) := by decide

theorem witness_waiting :
    small.inputs = [] ∧ ({ presented [.readBuf 0] with phase := .busy } : State).phase = .busy := by decide

/-- An idle block with a step, and a block whose step stops: the hypotheses of the statements about every step. -/
theorem witness_steps :
    (small.phase = .idle ∧ ∃ t, step small = .next t) ∧
    (small.cfg.Legal ∧ ∃ f, step (presented [.command 0x5000100400000000#64 []]) = .fault f) :=
  ⟨⟨rfl, _, rfl⟩, by decide, _, rfl⟩

/-- The first and the last register number, of a busy and of an idle block. -/
theorem witness_dimensionReads :
    (small.cfg.Legal ∧ 0 < 4 ∧ 3 < 4) ∧
    ({ presented [.readDim 3] with phase := .busy } : State).inputs = [.readDim 3] := by decide

theorem witness_bufferReads :
    (presented [.readBuf 7]).phase = .idle ∧ (presented [.readBuf 7]).inputs = [.readBuf 7] ∧ 7 < (presented []).cfg.bufLen ∧
    (presented []).cfg.bufLen ≤ 8 := by decide

theorem witness_portReadsOutOfRange :
    (presented [.readDim 4]).inputs = [.readDim 4] ∧ 4 ≤ 4 ∧ (presented [.readBuf 8]).inputs = [.readBuf 8] ∧
    (presented [.readBuf 8]).cfg.bufLen ≤ 8 := by decide

theorem witness_readBack :
    (presented [.command 0x10000001000F0003#64 [], .readBuf 7]).phase = .idle ∧ small.cfg.Legal ∧
    decode 0x10000001000F0003#64 = .ok (.setpixel 3 15 .foreground) ∧
    small.cfg.W * ((15 : Int) / 8).toNat + (3 : Int).toNat = 7 ∧ 7 < small.cfg.bufLen ∧
    decode 0x2000000000000000#64 = .ok .clear := by decide

/-- A step that changes the buffer. -/
theorem witness_bufferWritten :
    ∃ t, step (presented [.command 0x2000000000000000#64 []]) = .next t ∧
      t.fb ≠ (presented [.command 0x2000000000000000#64 []]).fb :=
  ⟨_, rfl, by decide⟩

/-- A step that is no reset and sends events. -/
theorem witness_outputGrows :
    (∃ t, step (presented [.command 0x4000000000000000#64 []]) = .next t) ∧
    ∀ m rest, (presented [.command 0x4000000000000000#64 []]).inputs ≠ .reset m :: rest :=
  ⟨⟨_, rfl⟩, by simp [presented]⟩

theorem witness_invariant : small.Inv :=
  ⟨by decide, by unfold State.BufferWf; decide, fun _ => by decide⟩

theorem witness_framing :
    ({ small with out := [.csAssert, .cmd 1#8, .cmd 2#8, .cmd 3#8, .data 4#8, .csDeassert] } : State).WholeBursts :=
  fun _ => by decide

theorem witness_reset : smallConfig.Legal ∧ (List.replicate 8 0xFF#8).length = smallConfig.bufLen := by decide

theorem witness_resetTaken : (presented [.reset [1#8]]).inputs = [.reset [1#8]] := by decide

end Sys2Proof.Tests
end

section
/-!
SUPPORT. A step is a whole operation (00_scope.md R14): an idle block runs the word presented to it, and every meaning that completes
leaves the block idle (10_state.md R26).
-/
namespace Sys2Proof.Machine

/-- An idle block takes the command word presented to it (R26). -/
theorem step_command_of_idle {s : State} {word : CommandWord} {src : List Byte} {rest : List Input}
    (hidle : s.phase = .idle) (hin : s.inputs = .command word src :: rest) : step s = s.runWord word src rest := by
  simp only [step, State.takeInput, hin, hidle]

/-- A word that decodes runs as its operation once it is accepted (R14, R57). -/
theorem State.runWord_ok (s : State) {word : CommandWord} {i : Instr} (hd : decode word = .ok i) (src : List Byte)
    (rest : List Input) : s.runWord word src rest = exec i (s.accept src rest) := by
  simp only [State.runWord, hd]

/-- A dimension read, answered or refused, leaves the phase alone (R18, R104). -/
@[simp] theorem State.serveDim_phase (s : State) (n : Nat) (rest : List Input) : (s.serveDim n rest).phase = s.phase := by
  obtain ⟨v, -, h⟩ | ⟨-, h⟩ := s.serveDim_cases n rest
  · rw [h, State.answer_phase]
  · rw [h, State.refuse_phase]

/-- A buffer read, answered or refused, leaves the phase alone (R28, R104). -/
@[simp] theorem State.serveBuf_phase (s : State) (i : Nat) (rest : List Input) : (s.serveBuf i rest).phase = s.phase := by
  obtain ⟨-, h⟩ | ⟨-, h⟩ := s.serveBuf_cases i rest
  · rw [h, State.answer_phase]
  · rw [h, State.refuse_phase]

/-- A region operation that completes leaves the block idle; one that overruns its source answers no next state (R26, R81). -/
theorem State.phase_of_runRegion_next {s t : State} {r : Region} {source : Nat → Option Byte}
    (h : s.runRegion r source = .next t) : t.phase = .idle := by
  obtain ⟨-, hrun⟩ | ⟨o, -, hrun⟩ := s.runRegion_cases r source
  · cases hrun.symm.trans h
    exact State.endRegion_phase ..
  · cases hrun.symm.trans h

/-- An operation that completes leaves the block idle, whatever the phase it was run in (R26). -/
theorem phase_of_exec_next {i : Instr} {s t : State} (h : exec i s = .next t) : t.phase = .idle := by
  cases i with
  | setpixel x y color =>
    cases (exec_setpixel x y color s).symm.trans h
    exact State.complete_phase _
  | clear =>
    cases (exec_clear s).symm.trans h
    rfl
  | sync x y w rh => exact State.phase_of_runRegion_next ((exec_sync x y w rh s).symm.trans h)
  | update => exact State.phase_of_runRegion_next ((exec_update s).symm.trans h)
  | draw x y w rh => exact State.phase_of_runRegion_next ((exec_draw x y w rh s).symm.trans h)

/-- Settles O34: of everything a step can do, running a word ends idle and the rest leaves an idle phase alone or resets it. -/
theorem idleBlockStaysIdle : Obligations.IdleBlockStaysIdle := by
  intro s t hidle hstep
  obtain ⟨-, h⟩ | ⟨hbusy, -⟩ | ⟨_, src, rest, i, -, -, -, h⟩ | ⟨_, _, rest, reason, -, -, -, h⟩ | ⟨n, rest, -, h⟩ |
    ⟨i, rest, -, -, h⟩ | ⟨fbInit, rest, -, h⟩ := step_cases s
  · cases h.symm.trans hstep
    exact hidle
  · cases hbusy.symm.trans hidle
  · exact phase_of_exec_next (h.symm.trans hstep)
  · cases h.symm.trans hstep
    rwa [State.refuse_phase]
  · cases h.symm.trans hstep
    rwa [State.serveDim_phase]
  · cases h.symm.trans hstep
    rwa [State.serveBuf_phase]
  · cases h.symm.trans hstep
    exact State.serveReset_phase ..

/-- Settles O32: the state the statement writes out is the one `State.accept` gives. -/
theorem stepRunsTheDecodedInstruction : Obligations.StepRunsTheDecodedInstruction := by
  intro s w src rest i hidle hin hd
  calc step s = s.runWord w src rest := step_command_of_idle hidle hin
    _ = exec i (s.accept src rest) := s.runWord_ok hd src rest

end Sys2Proof.Machine
end

section
/-!
SUPPORT. What a step does with each thing presented to it, and what its answers can be: one rule per port, and one inversion for a next
state and one for a fault, that the invariants below are derived from.
-/
namespace Sys2Proof.Machine

/-- With nothing presented the block waits (R115). -/
theorem step_of_nothing_presented {s : State} (hin : s.inputs = []) : step s = .next s := by
  simp only [step, State.takeInput, hin]

/-- A busy block holds a command word (R26). -/
theorem step_command_of_busy {s : State} {word : CommandWord} {src : List Byte} {rest : List Input}
    (hbusy : s.phase = .busy) (hin : s.inputs = .command word src :: rest) : step s = .next s := by
  simp only [step, State.takeInput, hin, hbusy]

/-- A busy block holds a buffer read (R28). -/
theorem step_readBuf_of_busy {s : State} {i : Nat} {rest : List Input} (hbusy : s.phase = .busy)
    (hin : s.inputs = .readBuf i :: rest) : step s = .next s := by
  simp only [step, State.takeInput, hin, hbusy]

/-- An idle block serves a buffer read (R28). -/
theorem step_readBuf_of_idle {s : State} {i : Nat} {rest : List Input} (hidle : s.phase = .idle)
    (hin : s.inputs = .readBuf i :: rest) : step s = .next (s.serveBuf i rest) := by
  simp only [step, State.takeInput, hin, hidle]

/-- A dimension read is served in every phase (R18). -/
theorem step_readDim {s : State} {n : Nat} {rest : List Input} (hin : s.inputs = .readDim n :: rest) :
    step s = .next (s.serveDim n rest) := by
  simp only [step, State.takeInput, hin]

/-- A reset is taken in every phase (R115). -/
theorem step_reset {s : State} {fbInit : List Byte} {rest : List Input} (hin : s.inputs = .reset fbInit :: rest) :
    step s = .next (s.serveReset fbInit rest) := by
  simp only [step, State.takeInput, hin]

/-- Everything an operation is: a pixel operation, which completes, or REGION over some source (R63, R67, R90, R92, R94). -/
theorem exec_cases (i : Instr) (s : State) :
    (∃ x y color, i = .setpixel x y color ∧ exec i s = .next (s.paintPixel x y color).complete) ∨
    (i = .clear ∧ exec i s = .next { s with fb := s.fb.zeroBelow s.cfg.bufLen, phase := .idle }) ∨
    (∃ r len bytes source, RegionOperation i s r len bytes ∧ exec i s = s.runRegion r source) := by
  cases i with
  | setpixel x y color => exact .inl ⟨x, y, color, rfl, exec_setpixel x y color s⟩
  | clear => exact .inr (.inl ⟨rfl, exec_clear s⟩)
  | sync x y w h => exact .inr (.inr ⟨_, _, _, _, .inl ⟨rfl, rfl, rfl⟩, exec_sync x y w h s⟩)
  | update => exact .inr (.inr ⟨_, _, _, _, .inr (.inl ⟨rfl, rfl, rfl, rfl⟩), exec_update s⟩)
  | draw x y w h => exact .inr (.inr ⟨_, _, _, _, .inr (.inr ⟨rfl, rfl, rfl⟩), exec_draw x y w h s⟩)

/-- What an operation that completes leaves: a painted pixel, a zeroed buffer, or REGION's events sent. -/
theorem exec_next_cases {i : Instr} {s t : State} (h : exec i s = .next t) :
    (∃ x y color, i = .setpixel x y color ∧ t = (s.paintPixel x y color).complete) ∨
    (i = .clear ∧ t = { s with fb := s.fb.zeroBelow s.cfg.bufLen, phase := .idle }) ∨
    (∃ r len bytes source, RegionOperation i s r len bytes ∧ (regionRun s.cfg r source).stop = none ∧
      t = s.endRegion (regionRun s.cfg r source).events) := by
  obtain ⟨x, y, color, rfl, he⟩ | ⟨rfl, he⟩ | ⟨r, len, bytes, source, hop, he⟩ := exec_cases i s
  · cases he.symm.trans h
    exact .inl ⟨x, y, color, rfl, rfl⟩
  · cases he.symm.trans h
    exact .inr (.inl ⟨rfl, rfl⟩)
  · obtain ⟨hstop, hrun⟩ | ⟨o, -, hrun⟩ := s.runRegion_cases r source
    · cases (he.trans hrun).symm.trans h
      exact .inr (.inr ⟨r, len, bytes, source, hop, hstop, rfl⟩)
    · cases (he.trans hrun).symm.trans h

/-- Only REGION faults, and the fault carries what it sent before its overrun (R81, R101). -/
theorem exec_fault {i : Instr} {s : State} {f : Fault} (h : exec i s = .fault f) :
    ∃ r source o, (regionRun s.cfg r source).stop = some o ∧
      f = .sourceOverrun o.off (s.overrun (regionRun s.cfg r source).events (o.sequencer r) o.off) := by
  obtain ⟨x, y, color, -, he⟩ | ⟨-, he⟩ | ⟨r, -, -, source, -, he⟩ := exec_cases i s
  · cases he.symm.trans h
  · cases he.symm.trans h
  · obtain ⟨-, hrun⟩ | ⟨o, hstop, hrun⟩ := s.runRegion_cases r source
    · cases (he.trans hrun).symm.trans h
    · cases (he.trans hrun).symm.trans h
      exact ⟨r, source, o, hstop, rfl⟩

/-- What a next state can be: the state unchanged, a refusal marked, a port read answered, a reset, or an operation completed. -/
theorem step_next_cases {s t : State} (h : step s = .next t) :
    t = s ∨ (∃ reason rest, t = s.refuse reason rest) ∨ (∃ reply rest, t = s.answer reply rest) ∨
    (∃ fbInit rest, s.inputs = .reset fbInit :: rest ∧ t = s.serveReset fbInit rest) ∨
    (∃ word src rest i, s.inputs = .command word src :: rest ∧ s.phase = .idle ∧ decode word = .ok i ∧
      exec i (s.accept src rest) = .next t) := by
  obtain ⟨-, hs⟩ | ⟨-, hs⟩ | ⟨word, src, rest, i, hin, hidle, hd, hs⟩ | ⟨_, _, rest, reason, -, -, -, hs⟩ | ⟨n, rest, -, hs⟩ |
    ⟨i, rest, -, -, hs⟩ | ⟨fbInit, rest, hin, hs⟩ := step_cases s
  · cases hs.symm.trans h
    exact .inl rfl
  · cases hs.symm.trans h
    exact .inl rfl
  · exact .inr (.inr (.inr (.inr ⟨word, src, rest, i, hin, hidle, hd, hs.symm.trans h⟩)))
  · cases hs.symm.trans h
    exact .inr (.inl ⟨reason, rest, rfl⟩)
  · cases hs.symm.trans h
    obtain ⟨v, -, hv⟩ | ⟨-, hv⟩ := s.serveDim_cases n rest
    · exact .inr (.inr (.inl ⟨_, _, hv⟩))
    · exact .inr (.inl ⟨_, _, hv⟩)
  · cases hs.symm.trans h
    obtain ⟨-, hv⟩ | ⟨-, hv⟩ := s.serveBuf_cases i rest
    · exact .inr (.inr (.inl ⟨_, _, hv⟩))
    · exact .inr (.inl ⟨_, _, hv⟩)
  · cases hs.symm.trans h
    exact .inr (.inr (.inr (.inl ⟨fbInit, rest, hin, rfl⟩)))

/-- A step that faults runs an operation of an idle block. -/
theorem step_fault {s : State} {f : Fault} (h : step s = .fault f) :
    ∃ word src rest i, s.inputs = .command word src :: rest ∧ s.phase = .idle ∧ decode word = .ok i ∧
      exec i (s.accept src rest) = .fault f := by
  obtain ⟨-, hs⟩ | ⟨-, hs⟩ | ⟨word, src, rest, i, hin, hidle, hd, hs⟩ | ⟨_, _, _, _, -, -, -, hs⟩ | ⟨_, _, -, hs⟩ |
    ⟨_, _, -, -, hs⟩ | ⟨_, _, -, hs⟩ := step_cases s
  case inr.inr.inl => exact ⟨word, src, rest, i, hin, hidle, hd, hs.symm.trans h⟩
  all_goals cases hs.symm.trans h

/-- An operation that completes keeps the parameters (R18). -/
theorem cfg_of_exec_next {i : Instr} {s t : State} (h : exec i s = .next t) : t.cfg = s.cfg := by
  obtain ⟨x, y, color, -, rfl⟩ | ⟨-, rfl⟩ | ⟨r, -, -, source, -, -, rfl⟩ := exec_next_cases h
  · rw [State.complete_cfg, State.paintPixel_cfg]
  · rfl
  · rw [State.endRegion_cfg]

/-- A step that answers a next state keeps the parameters (R17, R18). -/
theorem cfg_of_step_next {s t : State} (h : step s = .next t) : t.cfg = s.cfg := by
  obtain rfl | ⟨_, _, rfl⟩ | ⟨_, _, rfl⟩ | ⟨_, _, -, rfl⟩ | ⟨_, _, _, _, -, -, -, he⟩ := step_next_cases h
  · rfl
  · rw [State.refuse_cfg]
  · rw [State.answer_cfg]
  · rw [State.serveReset_cfg]
  · rw [cfg_of_exec_next he, State.accept_cfg]

end Sys2Proof.Machine
end

section
/-!
SUPPORT. What a step leaves unchanged (10_state.md R17, R18, R24): the Frame Buffer, the output stream and the parameters.
-/
namespace Sys2Proof.Machine

/-- Settles O40: of the cases of a next state only a reset and an operation touch the buffer, and of the operations REGION does not. -/
theorem bufferIsWrittenOnlyByPixelOperations : Obligations.BufferIsWrittenOnlyByPixelOperations := by
  intro s t hstep hfb
  obtain rfl | ⟨_, _, rfl⟩ | ⟨_, _, rfl⟩ | ⟨fbInit, rest, hin, -⟩ | ⟨word, src, rest, i, hin, -, hd, he⟩ := step_next_cases hstep
  · exact absurd rfl hfb
  · exact absurd (State.refuse_fb ..) hfb
  · exact absurd (State.answer_fb ..) hfb
  · exact .inr ⟨fbInit, rest, hin⟩
  · obtain ⟨x, y, color, rfl, -⟩ | ⟨rfl, -⟩ | ⟨_, _, _, _, -, -, rfl⟩ := exec_next_cases he
    · exact .inl ⟨word, src, rest, hin, .inl ⟨x, y, color, hd⟩⟩
    · exact .inl ⟨word, src, rest, hin, .inr hd⟩
    · rw [State.endRegion_fb, State.accept_fb] at hfb
      exact absurd rfl hfb

/-- Settles O41: every next state but a reset's keeps the stream, or is the end of a REGION that added its events. -/
theorem outputIsAppendOnly : Obligations.OutputIsAppendOnly := by
  intro s t hstep hreset
  have unchanged {u : State} (h : u.out = s.out) : u.out = s.out ++ [] := by rw [h, List.append_nil]
  have none_added {P : Prop} (h : ([] : List Event) ≠ []) : P := absurd rfl h
  obtain rfl | ⟨_, _, rfl⟩ | ⟨_, _, rfl⟩ | ⟨fbInit, rest, hin, -⟩ | ⟨word, src, rest, i, hin, -, hd, he⟩ := step_next_cases hstep
  · exact ⟨[], unchanged rfl, none_added⟩
  · exact ⟨[], unchanged (State.refuse_out ..), none_added⟩
  · exact ⟨[], unchanged (State.answer_out ..), none_added⟩
  · exact absurd hin (hreset fbInit rest)
  · obtain ⟨_, _, _, -, rfl⟩ | ⟨-, rfl⟩ | ⟨r, len, bytes, source, hop, -, rfl⟩ := exec_next_cases he
    · exact ⟨[], unchanged (by rw [State.complete_out, State.paintPixel_out, State.accept_out]), none_added⟩
    · exact ⟨[], unchanged rfl, none_added⟩
    · exact ⟨_, by rw [State.endRegion_out, State.accept_out], fun _ => ⟨word, src, rest, i, r, len, bytes, hin, hd, hop⟩⟩

/-- Settles O43: the dimension registers are wired to the parameters, which neither a next state nor a fault changes. -/
theorem parametersNeverChange : Obligations.ParametersNeverChange := by
  intro s
  constructor
  · intro t hstep
    have hcfg := cfg_of_step_next hstep
    simp only [State.width, State.height, State.pages, State.bufLenReg, hcfg, and_self]
  · intro off left hstep
    obtain ⟨_, _, _, _, -, -, -, he⟩ := step_fault hstep
    obtain ⟨_, _, _, -, hf⟩ := exec_fault he
    cases hf
    rw [State.overrun_cfg, State.accept_cfg]

end Sys2Proof.Machine
end

section
/-!
SUPPORT. The read ports and the reset (10_state.md R18, R28, R29): the dimension registers hold the parameters whole, a reset puts the
block in the state of R29.
-/
namespace Sys2Proof.Machine

section

variable {c : Config} (hl : c.Legal)
include hl

/-- The pages of a legal panel fill its height: `BUF_LEN = W * H / 8` (R6). -/
theorem bufLen_eq_of_legal : c.bufLen = c.W * c.H / 8 := by
  obtain ⟨-, ⟨-, -, hmod⟩, -⟩ := hl
  exact (Nat.mul_div_assoc c.W (Nat.dvd_of_mod_eq_zero hmod)).symm

/-- No legal buffer is longer than 4096 bytes (R6). -/
theorem bufLen_le_of_legal : c.bufLen ≤ 4096 := by
  obtain ⟨⟨-, hW⟩, ⟨-, hH, -⟩, -⟩ := hl
  exact Nat.mul_le_mul hW (Nat.div_le_of_le_mul hH : c.H / 8 ≤ 16)

end

section

variable {s : State} (hl : s.cfg.Legal)
include hl

/-- `WIDTH` holds `W` whole in its 9 bits (R18). -/
theorem State.width_toNat : s.width.toNat = s.cfg.W := by
  rw [State.width, BitVec.toNat_ofNat]
  omega

/-- `HEIGHT` holds `H` whole in its 8 bits (R18). -/
theorem State.height_toNat : s.height.toNat = s.cfg.H := by
  rw [State.height, BitVec.toNat_ofNat]
  omega

/-- `PAGES` holds `H / 8` whole in its 5 bits (R18). -/
theorem State.pages_toNat : s.pages.toNat = s.cfg.H / 8 := by
  rw [State.pages, BitVec.toNat_ofNat, Config.pageCount]
  omega

/-- `BUF_LEN` holds `W * H / 8` whole in its 13 bits (R18). -/
theorem State.bufLenReg_toNat : s.bufLenReg.toNat = s.cfg.W * s.cfg.H / 8 := by
  have hle := bufLen_le_of_legal hl
  rw [State.bufLenReg, BitVec.toNat_ofNat, ← bufLen_eq_of_legal hl]
  omega

/-- What dimension register `n` holds (R18). -/
theorem State.dimension_of_lt {n : Nat} (hn : n < 4) :
    s.dimension n = some (if n = 0 then s.cfg.W else if n = 1 then s.cfg.H else if n = 2 then s.cfg.H / 8
      else s.cfg.W * s.cfg.H / 8) := by
  match n, hn with
  | 0, _ => exact congrArg some (State.width_toNat hl)
  | 1, _ => exact congrArg some (State.height_toNat hl)
  | 2, _ => exact congrArg some (State.pages_toNat hl)
  | 3, _ => exact congrArg some (State.bufLenReg_toNat hl)

end

/-- What the Frame Buffer holds where a reset leaves it (R29). -/
theorem State.read_resetWith (c : Config) (fbInit : List Byte) {i : Nat} (hi : i < c.bufLen) :
    (State.resetWith c fbInit).fb.read i = fbInit.getD i 0x00#8 := by
  rw [State.resetWith, Memory.read_ofBytes, if_pos ⟨Nat.zero_le i, by omega⟩]
  rfl

/-- Settles O33, by the rule of each port for what a busy block holds. -/
theorem busyBlockHoldsWhatIsPresented : Obligations.BusyBlockHoldsWhatIsPresented := fun _ =>
  ⟨step_of_nothing_presented, fun hbusy =>
    ⟨fun _ _ _ hin => step_command_of_busy hbusy hin, fun _ _ hin => step_readBuf_of_busy hbusy hin⟩⟩

/-- Settles O36: the port serves the read, and the register holds the parameter whole. -/
theorem dimensionRegistersReadTheParameters : Obligations.DimensionRegistersReadTheParameters := by
  intro s n rest hl hin hn
  rw [step_readDim hin, State.serveDim, State.dimension_of_lt hl hn]
  rfl

/-- Settles O37: an idle block serves the read, whose index is in range. -/
theorem bufferReadAnswersTheByte : Obligations.BufferReadAnswersTheByte := by
  intro s i rest hidle hin hi
  rw [step_readBuf_of_idle hidle hin, State.serveBuf, if_pos hi]
  rfl

/-- Settles O47: the fields are written by `State.resetWith`, and nothing is presented yet. -/
theorem resetLeavesTheValuesOfTheSpec : Obligations.ResetLeavesTheValuesOfTheSpec := by
  intro c fbInit hl _ s
  have hs : s.cfg.Legal := hl
  exact ⟨fun i hi => State.read_resetWith c fbInit hi, rfl, rfl, rfl, rfl, State.width_toNat hs, State.height_toNat hs,
    State.pages_toNat hs, State.bufLenReg_toNat hs, step_of_nothing_presented rfl⟩

/-- Settles O48, by the rule of the reset and the fields of the state it leaves. -/
theorem resetTakenLeavesTheResetState : Obligations.ResetTakenLeavesTheResetState := fun _ _ _ hin =>
  ⟨_, step_reset hin, rfl, rfl, rfl, rfl, rfl, rfl, rfl, rfl, rfl, rfl, rfl⟩

end Sys2Proof.Machine
end

section
/-!
SUPPORT. Pixels and bits (10_state.md R16, 40_pixel_ops.md R63, R65): each pixel of the panel has a byte of the buffer and a bit of that
byte of its own.
-/
namespace Sys2Proof.Machine

/-- What painting a color makes of the pixel's bit (R65). -/
def paintedBit : Color → Bool → Bool
  | .foreground, _ => true
  | .background, _ => false
  | .inverse, b => !b

/-- The byte index of a pixel on the panel, in the terms of R16. -/
theorem pixelIndex_eq {c : Config} {x y : Int} (h : OnPanel c x y) : pixelIndex c x y = c.W * (y / 8).toNat + x.toNat := by
  obtain ⟨⟨hx, -⟩, hy, -⟩ := h
  lift x to Nat using hx
  lift y to Nat using hy
  exact Int.toNat_natCast (c.W * (y / 8) + x)

/-- The byte of a pixel on the panel lies in the buffer (R32). -/
theorem pixelIndex_lt {c : Config} (hl : c.Legal) {x y : Int} (h : OnPanel c x y) : pixelIndex c x y < c.bufLen := by
  have hx : x.toNat < c.W := by omega
  have hpage : (y / 8).toNat + 1 ≤ c.pageCount := by
    unfold Config.pageCount
    omega
  calc pixelIndex c x y = c.W * (y / 8).toNat + x.toNat := pixelIndex_eq h
    _ < c.W * ((y / 8).toNat + 1) := by rw [Nat.mul_succ]; omega
    _ ≤ c.bufLen := Nat.mul_le_mul_left _ hpage

/-- Only one pixel of the panel has a given byte and bit (R16). -/
theorem pixel_eq_of_address_eq {c : Config} {x y x' y' : Int} (h : OnPanel c x y) (h' : OnPanel c x' y')
    (hbyte : pixelIndex c x' y' = pixelIndex c x y) (hbit : (y' % 8).toNat = (y % 8).toNat) : x' = x ∧ y' = y := by
  have hx : x.toNat < c.W := by omega
  have hx' : x'.toNat < c.W := by omega
  rw [pixelIndex_eq h, pixelIndex_eq h'] at hbyte
  have hcol : x'.toNat = x.toNat := by
    simpa [Nat.mul_add_mod, Nat.mod_eq_of_lt, hx, hx'] using congrArg (· % c.W) hbyte
  have hrow : (y' / 8).toNat = (y / 8).toNat := Nat.eq_of_mul_eq_mul_left (by omega : 0 < c.W) (by omega)
  omega

/-- The mask of row `y` is bit `y mod 8` (R63). -/
theorem getLsbD_pixelMask (y : Int) {b : Nat} (hb : b < 8) : (pixelMask y).getLsbD b = decide (b = (y % 8).toNat) := by
  have hy : (y % 8).toNat < 8 := by omega
  rw [pixelMask]
  generalize (y % 8).toNat = n at hy
  revert b n
  decide

/-- Painting changes the bits its mask has, and no other (R65). -/
theorem getLsbD_paint (color : Color) (m old : Byte) {b : Nat} (hb : b < 8) :
    (paint color m old).getLsbD b = if m.getLsbD b then paintedBit color (old.getLsbD b) else old.getLsbD b := by
  cases color with
  | foreground => cases hm : m.getLsbD b <;> simp only [paint, BitVec.getLsbD_or, hm] <;> simp [paintedBit]
  | background =>
    cases hm : m.getLsbD b <;> simp only [paint, BitVec.getLsbD_and, BitVec.getLsbD_not, hm] <;> simp [paintedBit, hb]
  | inverse => cases hm : m.getLsbD b <;> simp only [paint, BitVec.getLsbD_xor, hm] <;> simp [paintedBit]

/-- A pixel of the panel is bit `y mod 8` of its byte (R16). -/
theorem State.pixel_eq {s : State} {x y : Int} (h : OnPanel s.cfg x y) :
    s.pixel x y = (s.fb.read (pixelIndex s.cfg x y)).getLsbD (y % 8).toNat := by
  rw [State.pixel, pixelIndex_eq h]

/-- Painting a pixel changes that pixel and no other (R16, R65). -/
theorem State.pixel_paintPixel {s : State} {x y x' y' : Int} (color : Color) (h : OnPanel s.cfg x y) (h' : OnPanel s.cfg x' y') :
    (s.paintPixel x y color).pixel x' y' = if x' = x ∧ y' = y then paintedBit color (s.pixel x y) else s.pixel x' y' := by
  have hbit : (y' % 8).toNat < 8 := by omega
  rw [State.pixel_eq (by rwa [State.paintPixel_cfg]), State.pixel_eq h, State.pixel_eq h', State.paintPixel_cfg,
    State.paintPixel_on _ _ _ _ h, Memory.read_write]
  by_cases hbyte : pixelIndex s.cfg x' y' = pixelIndex s.cfg x y
  · rw [if_pos hbyte, getLsbD_paint _ _ _ hbit, getLsbD_pixelMask y hbit, hbyte]
    by_cases hb : (y' % 8).toNat = (y % 8).toNat
    · rw [if_pos (decide_eq_true hb), if_pos (pixel_eq_of_address_eq h h' hbyte hb), hb]
    · rw [if_neg (by simpa using hb), if_neg fun heq => hb (by rw [heq.2])]
  · rw [if_neg hbyte, if_neg fun heq => hbyte (by rw [heq.1, heq.2])]

/-- Settles O12: the byte of a pixel is in the buffer, and painting one pixel leaves every other as it was. -/
theorem setPixelChangesOnlyItsPixel : Obligations.SetPixelChangesOnlyItsPixel := by
  intro s x y x' y' color hl hx hxW hy hyH hx' hxW' hy' hyH'
  have h : OnPanel s.cfg x y := ⟨⟨hx, hxW⟩, hy, hyH⟩
  have h' : OnPanel s.cfg x' y' := ⟨⟨hx', hxW'⟩, hy', hyH'⟩
  refine ⟨pixelIndex_eq h ▸ pixelIndex_lt hl h, _, exec_setpixel x y color s, ?_⟩
  refine (State.pixel_paintPixel color h h').trans ?_
  cases color <;> rfl

end Sys2Proof.Machine
end

section
/-!
SUPPORT. The invariant (00_scope.md R6, 10_state.md R15, R23): legal parameters, a well-formed Frame Buffer, lines at rest while idle.
-/
namespace Sys2Proof.Machine

/-- What a region operation that meets no overrun sends: its bands between the two framing events (R73). -/
theorem events_of_regionRun_completed {c : Config} {r : Region} {source : Nat → Option Byte}
    (h : (regionRun c r source).stop = none) :
    (regionRun c r source).events =
      .csAssert :: (bandRun c r source (List.range r.bandCount) r.startPage).events ++ [.csDeassert] := by
  cases hb : (bandRun c r source (List.range r.bandCount) r.startPage).stop with
  | none => simp [regionRun, hb]
  | some o => simp [regionRun, hb] at h

/-- What a region operation that meets an overrun has sent: no `CS_DEASSERT` ends it (R81). -/
theorem events_of_regionRun_stopped {c : Config} {r : Region} {source : Nat → Option Byte} {o : Overrun}
    (h : (regionRun c r source).stop = some o) :
    (regionRun c r source).events = .csAssert :: (bandRun c r source (List.range r.bandCount) r.startPage).events := by
  cases hb : (bandRun c r source (List.range r.bandCount) r.startPage).stop with
  | none => simp [regionRun, hb] at h
  | some o => simp [regionRun, hb]

/-- Painting a pixel keeps the Frame Buffer well formed: on the panel its byte is in the buffer (R15, R32). -/
theorem State.BufferWf.paintPixel {s : State} (hl : s.cfg.Legal) (hb : s.BufferWf) (x y : Int) (color : Color) :
    (s.paintPixel x y color).BufferWf := by
  by_cases h : OnPanel s.cfg x y
  · rw [State.paintPixel_on _ _ _ _ h]
    exact ⟨Memory.wf_write hb.1 _ _, Memory.within_write hb.2 (pixelIndex_lt hl h) _⟩
  · rwa [State.paintPixel_off _ _ _ _ h]

/-- An operation that completes keeps the Frame Buffer well formed (R15). -/
theorem bufferWf_of_exec_next {i : Instr} {s t : State} (hl : s.cfg.Legal) (hb : s.BufferWf) (h : exec i s = .next t) :
    t.BufferWf := by
  obtain ⟨x, y, color, -, rfl⟩ | ⟨-, rfl⟩ | ⟨_, _, _, _, -, -, rfl⟩ := exec_next_cases h
  · exact hb.paintPixel hl x y color
  · exact ⟨Memory.wf_zeroBelow hb.1 _, Memory.within_zeroBelow hb.2 _⟩
  · exact hb

/-- An operation that completes, begun with the lines at rest, leaves them at rest: a burst ends with `CS` deasserted, and every event
leaves `CD` at the data level (R23, R24). -/
theorem lines_of_exec_next {i : Instr} {s t : State} (hcs : s.csAsserted = false) (hcd : s.cdLevel = s.cfg.dataLevel)
    (h : exec i s = .next t) : t.csAsserted = false ∧ t.cdLevel = t.cfg.dataLevel := by
  obtain ⟨_, _, _, -, rfl⟩ | ⟨-, rfl⟩ | ⟨r, _, _, source, -, hstop, rfl⟩ := exec_next_cases h
  · simp [hcs, hcd]
  · exact ⟨hcs, hcd⟩
  · constructor
    · rw [State.endRegion_csAsserted, events_of_regionRun_completed hstop, csAfter_append]
      rfl
    · rw [State.endRegion_cdLevel, State.endRegion_cfg, hcd, cdAfter_dataLevel]

/-- The memory a Frame Buffer comes up with is well formed, whatever `FB_INIT` is (R15, R29). -/
theorem bufferWf_resetWith (c : Config) (fbInit : List Byte) : (State.resetWith c fbInit).BufferWf := by
  have hwithin := Memory.within_ofBytes 0 c.bufLen fbInit
  rw [Nat.zero_add] at hwithin
  exact ⟨Memory.wf_ofBytes _ _, hwithin⟩

/-- The reset state of a legal machine meets the invariant (R29). -/
theorem inv_resetWith {c : Config} (hl : c.Legal) (fbInit : List Byte) : (State.resetWith c fbInit).Inv :=
  ⟨hl, bufferWf_resetWith c fbInit, fun _ => ⟨rfl, rfl⟩⟩

/-- Settles O44: an operation begins on lines at rest, since it begins idle; a reset establishes the invariant anew; the other steps
touch none of it. -/
theorem stepsKeepTheInvariant : Obligations.StepsKeepTheInvariant := by
  intro s t hinv hstep
  have ⟨hl, hb, hlines⟩ := hinv
  obtain rfl | ⟨_, _, rfl⟩ | ⟨_, _, rfl⟩ | ⟨fbInit, _, -, rfl⟩ | ⟨word, src, rest, i, -, hidle, -, he⟩ := step_next_cases hstep
  · exact hinv
  · exact hinv
  · exact hinv
  · exact inv_resetWith hl fbInit
  · obtain ⟨hcs, hcd⟩ := hlines hidle
    have hcfg := cfg_of_step_next hstep
    exact ⟨hcfg ▸ hl, bufferWf_of_exec_next (s := s.accept src rest) hl hb he,
      fun _ => lines_of_exec_next (s := s.accept src rest) hcs hcd he⟩

/-- Settles O46: the buffer holds `FB_INIT` in canonical form, the lines are at rest, and nothing is sent or marked yet. -/
theorem invariantHoldsAtReset : Obligations.InvariantHoldsAtReset := by
  have atReset (c : Config) (fbInit : List Byte) (hl : c.Legal) :
      (State.resetWith c fbInit).Inv ∧ (State.resetWith c fbInit).WholeBursts ∧ (State.resetWith c fbInit).Clean :=
    ⟨inv_resetWith hl fbInit, fun _ => rfl, rfl, rfl⟩
  exact ⟨atReset, atReset defaultConfig [] (by decide)⟩

end Sys2Proof.Machine
end

section
/-!
SUPPORT. The framing of the output stream (10_state.md R25, 41_region_sync.md R73, R78): a region operation sends one burst that keeps
the rule, whether it completes or stops.
-/
namespace Sys2Proof.Machine

/-- A stream stands in a burst, before the cursor of a band: where a band may begin or the burst may end. -/
def Framing.BetweenBands (f : Framing) : Prop := f = .cursor 0 ∨ f = .ready

@[simp] theorem Framing.after_nil (f : Framing) : f.after [] = some f := rfl

/-- A stream is followed event by event. -/
theorem Framing.after_cons (f : Framing) (e : Event) (es : List Event) : f.after (e :: es) = (f.next e).bind (·.after es) := by
  simp only [Framing.after]
  cases f.next e <;> rfl

/-- A stream in two parts is followed part after part. -/
theorem Framing.after_append (f : Framing) (as bs : List Event) : f.after (as ++ bs) = (f.after as).bind (·.after bs) := by
  induction as generalizing f with
  | nil => rfl
  | cons e as ih =>
    rw [List.cons_append, Framing.after_cons, Framing.after_cons]
    cases f.next e with
    | none => rfl
    | some f' => exact ih f'

/-- The three commands of a cursor make a band ready for its data (R78). -/
theorem Framing.BetweenBands.after_cursor {f : Framing} (hf : f.BetweenBands) (c : Config) (col : Byte) (page : Nat) :
    f.after (Machine.cursor c col page) = some .ready := by
  obtain rfl | rfl := hf <;> rfl

/-- A burst may end between bands (R73). -/
theorem Framing.BetweenBands.after_csDeassert {f : Framing} (hf : f.BetweenBands) : f.after [.csDeassert] = some .between := by
  obtain rfl | rfl := hf <;> rfl

section

variable (c : Config) (r : Region) (source : Nat → Option Byte)

/-- The columns of a band send data only, stopped or not (R79 to R81). -/
theorem framing_columnRun (k page : Nat) (txs : List Nat) :
    Framing.ready.after (columnRun c r source k page txs).events = some .ready := by
  induction txs with
  | nil => rfl
  | cons tx txs ih =>
    cases hv : r.visible c tx with
    | false => rwa [columnRun_clipped c r source hv]
    | true =>
      cases hb : source (r.offset k tx) with
      | none => rw [columnRun_stopped c r source hv hb]; rfl
      | some b => rw [columnRun_sent c r source hv hb]; exact ih

/-- A band's cursor and columns, stopped or not, end where its data may go on. -/
theorem framing_band {f : Framing} (hf : f.BetweenBands) (k page : Nat) :
    f.after (cursor c r.startCol page ++ (columnRun c r source k page (List.range r.w)).events) = some .ready := by
  rw [Framing.after_append, hf.after_cursor]
  exact framing_columnRun c r source k page (List.range r.w)

/-- The bands of a region, stopped or not, keep the framing rule inside their burst (R78). -/
theorem framing_bandRun {f : Framing} (hf : f.BetweenBands) (ks : List Nat) (page : Nat) :
    ∃ f', f.after (bandRun c r source ks page).events = some f' ∧ f'.BetweenBands := by
  induction ks generalizing f page with
  | nil => exact ⟨f, rfl, hf⟩
  | cons k ks ih =>
    cases hk : r.skipped c k with
    | true =>
      rw [bandRun_skipped c r source hk]
      exact ih hf page
    | false =>
      have hband := framing_band c r source hf k page
      cases hs : (columnRun c r source k page (List.range r.w)).stop with
      | some o =>
        rw [bandRun_stopped c r source hk hs]
        exact ⟨.ready, hband, .inr rfl⟩
      | none =>
        rw [bandRun_shown c r source hk hs, Framing.after_append, hband]
        exact ih (.inr rfl) (page + 1)

variable {c r source}

/-- A region operation that completes sends one whole burst (R73). -/
theorem framing_regionRun_completed (h : (regionRun c r source).stop = none) :
    Framing.between.after (regionRun c r source).events = some .between := by
  obtain ⟨f, hbands, hf⟩ := framing_bandRun c r source (.inl rfl) (List.range r.bandCount) r.startPage
  rw [events_of_regionRun_completed h, List.cons_append, Framing.after_cons]
  exact (Framing.after_append ..).trans (hbands ▸ hf.after_csDeassert)

/-- A region operation that stops has sent a burst that keeps the rule and is not ended (R81). -/
theorem framing_regionRun_stopped {o : Overrun} (h : (regionRun c r source).stop = some o) :
    ∃ f, Framing.between.after (regionRun c r source).events = some f ∧ f ≠ .between := by
  obtain ⟨f, hbands, hf⟩ := framing_bandRun c r source (.inl rfl) (List.range r.bandCount) r.startPage
  rw [events_of_regionRun_stopped h, Framing.after_cons]
  exact ⟨f, hbands, by rintro rfl; simp [Framing.BetweenBands] at hf⟩

end

/-- An operation that completes appends whole bursts, if any. -/
theorem framing_of_exec_next {i : Instr} {s t : State} (hout : Framing.after .between s.out = some .between)
    (h : exec i s = .next t) : Framing.after .between t.out = some .between := by
  obtain ⟨_, _, _, -, rfl⟩ | ⟨-, rfl⟩ | ⟨r, _, _, source, -, hstop, rfl⟩ := exec_next_cases h
  · rwa [State.complete_out, State.paintPixel_out]
  · exact hout
  · rw [State.endRegion_out, Framing.after_append, hout]
    exact framing_regionRun_completed hstop

/-- Settles O45: an operation begins idle, so after whole bursts, and REGION appends a burst that is whole, or open where it faults. -/
theorem stepsKeepTheFraming : Obligations.StepsKeepTheFraming := by
  intro s hs
  constructor
  · intro t hstep
    obtain rfl | ⟨_, _, rfl⟩ | ⟨_, _, rfl⟩ | ⟨_, _, -, rfl⟩ | ⟨_, src, rest, _, -, hidle, -, he⟩ := step_next_cases hstep
    · exact hs
    · exact hs
    · exact hs
    · exact fun _ => rfl
    · exact fun _ => framing_of_exec_next (s := s.accept src rest) (hs hidle) he
  · intro off left hstep
    obtain ⟨_, _, _, _, -, hidle, -, he⟩ := step_fault hstep
    obtain ⟨_, _, _, hstop, hf⟩ := exec_fault he
    cases hf
    rw [State.overrun_out, State.accept_out, Framing.after_append, hs hidle]
    exact framing_regionRun_stopped hstop

end Sys2Proof.Machine
end

section
/-!
SUPPORT. Command order is memory order (20_memory.md R40): a buffer read that waits behind a command word is answered from the buffer
the word's operation leaves.
-/
namespace Sys2Proof.Machine

/-- An operation that completes takes nothing of what is presented behind it, and answers no read (R26, R28). -/
theorem ports_of_exec_next {i : Instr} {s t : State} (h : exec i s = .next t) : t.inputs = s.inputs ∧ t.replies = s.replies := by
  obtain ⟨_, _, _, -, rfl⟩ | ⟨-, rfl⟩ | ⟨_, _, _, _, -, -, rfl⟩ := exec_next_cases h
  · exact ⟨State.paintPixel_inputs .., State.paintPixel_replies ..⟩
  · exact ⟨rfl, rfl⟩
  · exact ⟨rfl, rfl⟩

/-- The byte of a pixel just painted (R63). -/
theorem State.read_paintPixel (s : State) {x y : Int} (color : Color) (h : OnPanel s.cfg x y) :
    (s.paintPixel x y color).fb.read (pixelIndex s.cfg x y) =
      paint color (pixelMask y) (s.fb.read (pixelIndex s.cfg x y)) := by
  rw [State.paintPixel_on _ _ _ _ h, Memory.read_write, if_pos rfl]

/-- Two steps in a row, as a run of the machine (R14). -/
theorem run_two_of_steps {s t u : State} (hs : step s = .next t) (ht : step t = .next u) :
    Host.Core.run Sys2Proof.core 2 s = .next u := by
  simp only [Host.Core.run, Sys2Proof.core, hs, ht]

/-- A command word that completes and the buffer read behind it, two steps: the read is answered from what the operation left (R40). -/
theorem run_command_readBuf {s t : State} {word : CommandWord} {src : List Byte} {i : Nat} {rest : List Input} {instr : Instr}
    {b : Byte} (hidle : s.phase = .idle) (hin : s.inputs = .command word src :: .readBuf i :: rest) (hi : i < s.cfg.bufLen)
    (hd : decode word = .ok instr) (he : exec instr (s.accept src (.readBuf i :: rest)) = .next t) (hb : t.fb.read i = b) :
    ∃ u, Host.Core.run Sys2Proof.core 2 s = .next u ∧ u.replies = s.replies ++ [.byte i b] := by
  have hcommand : step s = .next t := by rw [step_command_of_idle hidle hin, State.runWord_ok s hd, he]
  obtain ⟨hinputs, hreplies⟩ := ports_of_exec_next he
  have hread := bufferReadAnswersTheByte t i rest (phase_of_exec_next he) hinputs (by rwa [cfg_of_step_next hcommand])
  exact ⟨_, run_two_of_steps hcommand hread, by rw [hreplies, State.accept_replies, hb]⟩

/-- Settles O39: the read is answered from the buffer the word's operation leaves, which holds the painted byte or zeros. -/
theorem readBackFollowsTheCommandBefore : Obligations.ReadBackFollowsTheCommandBefore := by
  intro s w src rest hl hidle
  constructor
  · intro x y color hx hxW hy hyH hd hin
    have hon : OnPanel s.cfg x y := ⟨⟨hx, hxW⟩, hy, hyH⟩
    rw [← pixelIndex_eq hon] at hin ⊢
    exact run_command_readBuf hidle hin (pixelIndex_lt hl hon) hd (exec_setpixel ..) (State.read_paintPixel _ color hon)
  · intro i hi hd hin
    have hzero : (s.fb.zeroBelow s.cfg.bufLen).read i = 0x00#8 := (Memory.read_zeroBelow ..).trans (if_pos hi)
    exact run_command_readBuf hidle hin hi hd (exec_clear _) hzero

end Sys2Proof.Machine
end

section
/-!
SUPPORT. What `decode` does: one equation per opcode (30_encoding.md R52, R57), and per format when the rest of the word is accepted and
why it is refused (R54, R55).
-/
namespace Sys2Proof

variable {w : CommandWord}

/-! The decoder, one equation per opcode of R52. -/

theorem decode_setpixel (h : opField w = 1#4) : decode w = decodePixel w := if_pos h

theorem decode_clear (h : opField w = 2#4) : decode w = decodePlain .clear w := by simp [decode, h]

theorem decode_sync (h : opField w = 3#4) : decode w = decodeRegion .sync w := by simp [decode, h]

theorem decode_update (h : opField w = 4#4) : decode w = decodePlain .update w := by simp [decode, h]

theorem decode_draw (h : opField w = 5#4) : decode w = decodeRegion .draw w := by simp [decode, h]

/-- The codes of the reserved rows are none of the five operations' codes (R52). -/
theorem ne_opcode_of_reserved (op : BitVec 4) (h : op = 0x0#4 ∨ 0x6#4 ≤ op) :
    op ≠ 1#4 ∧ op ≠ 2#4 ∧ op ≠ 3#4 ∧ op ≠ 4#4 ∧ op ≠ 5#4 := by
  revert op
  decide

/-- A word of a reserved row is refused for its opcode, whatever its other bits are (R53). -/
theorem decode_reserved (h : opField w = 0x0#4 ∨ 0x6#4 ≤ opField w) : decode w = .error .reservedOpcode := by
  obtain ⟨h1, h2, h3, h4, h5⟩ := ne_opcode_of_reserved _ h
  simp [decode, h1, h2, h3, h4, h5]

/-! The three formats: when the rest of a word is accepted, and why it is refused (R54, R55). -/

theorem colorOfCode_eq_some_iff (code : BitVec 2) (c : Color) : colorOfCode code = some c ↔ code = colorCode c := by
  revert code
  cases c <;> decide

/-- Every code but 3 is the code of a color (R51). -/
theorem exists_colorCode_iff (code : BitVec 2) : (∃ c, code = colorCode c) ↔ code ≠ 3#2 := by
  constructor
  · rintro ⟨c, rfl⟩
    cases c <;> decide
  · intro h
    obtain rfl | rfl | rfl : code = 0#2 ∨ code = 1#2 ∨ code = 2#2 := by
      revert code
      decide
    exacts [⟨.background, rfl⟩, ⟨.foreground, rfl⟩, ⟨.inverse, rfl⟩]

theorem decodePixel_reservedBits (h : w.extractLsb' 34 26 ≠ 0#26) : decodePixel w = .error .reservedBits := if_pos h

theorem decodePixel_reservedColor (h : w.extractLsb' 34 26 = 0#26) (hc : w.extractLsb' 32 2 = 3#2) :
    decodePixel w = .error .reservedColor := by
  simp [decodePixel, h, hc, colorOfCode]

theorem decodePixel_eq_ok_iff {i : Instr} :
    decodePixel w = .ok i ↔
      w.extractLsb' 34 26 = 0#26 ∧ ∃ c, w.extractLsb' 32 2 = colorCode c ∧ .setpixel (xField w) (yField w) c = i := by
  by_cases h : w.extractLsb' 34 26 = 0#26
  · cases hc : colorOfCode (w.extractLsb' 32 2) <;> simp [decodePixel, h, hc, ← colorOfCode_eq_some_iff]
  · simp [decodePixel, h]

theorem decodePlain_reservedBits (j : Instr) (h : w.extractLsb' 0 60 ≠ 0#60) : decodePlain j w = .error .reservedBits :=
  if_pos h

theorem decodePlain_eq_ok_iff {i j : Instr} : decodePlain j w = .ok i ↔ w.extractLsb' 0 60 = 0#60 ∧ j = i := by
  by_cases h : w.extractLsb' 0 60 = 0#60 <;> simp [decodePlain, h]

theorem decodeRegion_reservedBits (mk : Int → Int → Nat → Nat → Instr) (h : w.extractLsb' 48 12 ≠ 0#12) :
    decodeRegion mk w = .error .reservedBits := if_pos h

theorem decodeRegion_eq_ok_iff {mk : Int → Int → Nat → Nat → Instr} {i : Instr} :
    decodeRegion mk w = .ok i ↔ w.extractLsb' 48 12 = 0#12 ∧ mk (xField w) (yField w) (rwField w) (rhField w) = i := by
  by_cases h : w.extractLsb' 48 12 = 0#12 <;> simp [decodeRegion, h]

end Sys2Proof
end

section
/-!
SUPPORT. Decoding and encoding invert each other (30_encoding.md R45 to R52, R57). Both directions rest on one reading of a word:
`Carries w i` says that the fields of `w` are those of the operation `i`. A word decodes to exactly the operation it carries, a
well-formed operation's own word carries it, and no two words carry one operation.
-/
namespace Sys2Proof

variable {w v : CommandWord}

/-- The word is the format-R word of opcode `op` with these operands (R48). -/
def CarriesRegion (w : CommandWord) (op : BitVec 4) (x y : Int) (rw rh : Nat) : Prop :=
  opField w = op ∧ w.extractLsb' 48 12 = 0#12 ∧ xField w = x ∧ yField w = y ∧ rwField w = rw ∧ rhField w = rh

/-- The word's opcode and operand fields are those of the operation, and its reserved bits are zero (R47 to R51). -/
def Carries (w : CommandWord) : Instr → Prop
  | .setpixel x y c =>
    opField w = 1#4 ∧ w.extractLsb' 34 26 = 0#26 ∧ w.extractLsb' 32 2 = colorCode c ∧ xField w = x ∧ yField w = y
  | .clear => opField w = 2#4 ∧ w.extractLsb' 0 60 = 0#60
  | .sync x y rw rh => CarriesRegion w 3#4 x y rw rh
  | .update => opField w = 4#4 ∧ w.extractLsb' 0 60 = 0#60
  | .draw x y rw rh => CarriesRegion w 5#4 x y rw rh

theorem carries_of_decode {i : Instr} (h : decode w = .ok i) : Carries w i := by
  unfold decode at h
  split_ifs at h with h1 h2 h3 h4 h5
  · obtain ⟨hres, c, hc, rfl⟩ := decodePixel_eq_ok_iff.mp h
    exact ⟨h1, hres, hc, rfl, rfl⟩
  · obtain ⟨hres, rfl⟩ := decodePlain_eq_ok_iff.mp h
    exact ⟨h2, hres⟩
  · obtain ⟨hres, rfl⟩ := decodeRegion_eq_ok_iff.mp h
    exact ⟨h3, hres, rfl, rfl, rfl, rfl⟩
  · obtain ⟨hres, rfl⟩ := decodePlain_eq_ok_iff.mp h
    exact ⟨h4, hres⟩
  · obtain ⟨hres, rfl⟩ := decodeRegion_eq_ok_iff.mp h
    exact ⟨h5, hres, rfl, rfl, rfl, rfl⟩

theorem decode_of_carries {i : Instr} (h : Carries w i) : decode w = .ok i := by
  cases i with
  | setpixel x y c =>
    obtain ⟨hop, hres, hc, rfl, rfl⟩ := h
    exact (decode_setpixel hop).trans (decodePixel_eq_ok_iff.mpr ⟨hres, c, hc, rfl⟩)
  | clear => exact (decode_clear h.1).trans (decodePlain_eq_ok_iff.mpr ⟨h.2, rfl⟩)
  | sync x y rw rh =>
    obtain ⟨hop, hres, rfl, rfl, rfl, rfl⟩ := h
    exact (decode_sync hop).trans (decodeRegion_eq_ok_iff.mpr ⟨hres, rfl⟩)
  | update => exact (decode_update h.1).trans (decodePlain_eq_ok_iff.mpr ⟨h.2, rfl⟩)
  | draw x y rw rh =>
    obtain ⟨hop, hres, rfl, rfl, rfl, rfl⟩ := h
    exact (decode_draw hop).trans (decodeRegion_eq_ok_iff.mpr ⟨hres, rfl⟩)

theorem decode_eq_ok_iff {i : Instr} : decode w = .ok i ↔ Carries w i := ⟨carries_of_decode, decode_of_carries⟩

/-! The operands of a carried operation fit their fields (R50). -/

theorem coordFits_toInt (b : BitVec 16) : CoordFits b.toInt := by
  have hlo := b.le_toInt
  have hhi := b.toInt_lt
  constructor <;> omega

theorem rwField_le (w : CommandWord) : rwField w ≤ 255 := Nat.le_of_lt_succ (w.extractLsb' 32 8).isLt

theorem rhField_le (w : CommandWord) : rhField w ≤ 255 := Nat.le_of_lt_succ (w.extractLsb' 40 8).isLt

theorem CarriesRegion.fits {op : BitVec 4} {x y : Int} {rw rh : Nat} (h : CarriesRegion w op x y rw rh) :
    CoordFits x ∧ CoordFits y ∧ ExtentFits rw ∧ ExtentFits rh := by
  obtain ⟨-, -, rfl, rfl, rfl, rfl⟩ := h
  exact ⟨coordFits_toInt _, coordFits_toInt _, rwField_le w, rhField_le w⟩

theorem wellFormed_setpixel_iff {x y : Int} {c : Color} : (Instr.setpixel x y c).WellFormed ↔ CoordFits x ∧ CoordFits y := by
  simp only [Instr.WellFormed, Instr.wellFormed, Bool.and_eq_true, decide_eq_true_eq]

theorem wellFormed_sync_iff {x y : Int} {rw rh : Nat} :
    (Instr.sync x y rw rh).WellFormed ↔ CoordFits x ∧ CoordFits y ∧ ExtentFits rw ∧ ExtentFits rh := by
  simp only [Instr.WellFormed, Instr.wellFormed, Bool.and_eq_true, decide_eq_true_eq, and_assoc]

theorem wellFormed_draw_iff {x y : Int} {rw rh : Nat} :
    (Instr.draw x y rw rh).WellFormed ↔ CoordFits x ∧ CoordFits y ∧ ExtentFits rw ∧ ExtentFits rh := wellFormed_sync_iff

theorem Carries.wellFormed {i : Instr} (h : Carries w i) : i.WellFormed := by
  cases i with
  | setpixel x y c =>
    obtain ⟨-, -, -, rfl, rfl⟩ := h
    exact wellFormed_setpixel_iff.mpr ⟨coordFits_toInt _, coordFits_toInt _⟩
  | clear => rfl
  | sync x y rw rh => exact wellFormed_sync_iff.mpr (CarriesRegion.fits h)
  | update => rfl
  | draw x y rw rh => exact wellFormed_draw_iff.mpr (CarriesRegion.fits h)

/-! The word of a well-formed operation carries it. -/

theorem toInt_ofInt_of_coordFits {x : Int} (h : CoordFits x) : (BitVec.ofInt 16 x).toInt = x := by
  obtain ⟨hlo, hhi⟩ := h
  exact BitVec.toInt_ofInt_eq_self (by decide) (by omega) (by omega)

theorem toNat_ofNat_of_extentFits {n : Nat} (h : ExtentFits n) : (BitVec.ofNat 8 n).toNat = n :=
  Nat.mod_eq_of_lt (Nat.lt_succ_of_le h)

theorem carriesRegion_encodeRegion (op : BitVec 4) {x y : Int} {rw rh : Nat} (hx : CoordFits x) (hy : CoordFits y)
    (hrw : ExtentFits rw) (hrh : ExtentFits rh) : CarriesRegion (encodeRegion op x y rw rh) op x y rw rh := by
  refine ⟨Laws.opField_encodeRegion .., ?_, ?_, ?_, ?_, ?_⟩
  · simp [encodeRegion, BitVec.extractLsb'_or, extract_place_beside]
  · simp [xField, encodeRegion, BitVec.extractLsb'_or, extract_place, extract_place_beside, toInt_ofInt_of_coordFits hx]
  · simp [yField, encodeRegion, BitVec.extractLsb'_or, extract_place, extract_place_beside, toInt_ofInt_of_coordFits hy]
  · simp [rwField, encodeRegion, BitVec.extractLsb'_or, extract_place, extract_place_beside, toNat_ofNat_of_extentFits hrw]
  · simp [rhField, encodeRegion, BitVec.extractLsb'_or, extract_place, extract_place_beside, toNat_ofNat_of_extentFits hrh]

theorem carries_encode {i : Instr} (h : i.WellFormed) : Carries (encode i) i := by
  cases i with
  | setpixel x y c =>
    obtain ⟨hx, hy⟩ := wellFormed_setpixel_iff.mp h
    refine ⟨Laws.OpcodeField.setpixel x y c, ?_, ?_, ?_, ?_⟩
    · simp [encode, BitVec.extractLsb'_or, extract_place_beside]
    · simp [encode, BitVec.extractLsb'_or, extract_place, extract_place_beside]
    · simp [xField, encode, BitVec.extractLsb'_or, extract_place, extract_place_beside, toInt_ofInt_of_coordFits hx]
    · simp [yField, encode, BitVec.extractLsb'_or, extract_place, extract_place_beside, toInt_ofInt_of_coordFits hy]
  | clear => exact ⟨Laws.OpcodeField.clear, extract_place_beside _ _ _ _ (.inl (Nat.le_refl 60))⟩
  | sync x y rw rh =>
    obtain ⟨hx, hy, hrw, hrh⟩ := wellFormed_sync_iff.mp h
    exact carriesRegion_encodeRegion 3#4 hx hy hrw hrh
  | update => exact ⟨Laws.OpcodeField.update, extract_place_beside _ _ _ _ (.inl (Nat.le_refl 60))⟩
  | draw x y rw rh =>
    obtain ⟨hx, hy, hrw, hrh⟩ := wellFormed_draw_iff.mp h
    exact carriesRegion_encodeRegion 5#4 hx hy hrw hrh

/-! Words with the same fields are the same word. -/

/-- Two words that agree on a field and on the field above it agree on both as one. -/
theorem extract_eq_join {lo n m : Nat} (hlow : w.extractLsb' lo n = v.extractLsb' lo n)
    (hhigh : w.extractLsb' (lo + n) m = v.extractLsb' (lo + n) m) : w.extractLsb' lo (n + m) = v.extractLsb' lo (n + m) := by
  rw [Nat.add_comm n m, ← BitVec.extractLsb'_append_extractLsb'_eq_extractLsb' rfl,
    ← BitVec.extractLsb'_append_extractLsb'_eq_extractLsb' rfl, hlow, hhigh]

theorem eq_of_extract_all_eq (h : w.extractLsb' 0 64 = v.extractLsb' 0 64) : w = v := by
  rwa [BitVec.extractLsb'_eq_self, BitVec.extractLsb'_eq_self] at h

theorem extract_coords_eq (hx : xField w = xField v) (hy : yField w = yField v) : w.extractLsb' 0 32 = v.extractLsb' 0 32 :=
  extract_eq_join (BitVec.toInt_inj.mp hx) (BitVec.toInt_inj.mp hy)

theorem CarriesRegion.word_unique {op : BitVec 4} {x y : Int} {rw rh : Nat} (hw : CarriesRegion w op x y rw rh)
    (hv : CarriesRegion v op x y rw rh) : w = v := by
  obtain ⟨hop, hres, hx, hy, hrw, hrh⟩ := hw
  obtain ⟨hop', hres', hx', hy', hrw', hrh'⟩ := hv
  have hcoords := extract_coords_eq (hx.trans hx'.symm) (hy.trans hy'.symm)
  have hextents := extract_eq_join (BitVec.toNat_inj.mp (hrw.trans hrw'.symm)) (BitVec.toNat_inj.mp (hrh.trans hrh'.symm))
  have htop := extract_eq_join (hres.trans hres'.symm) (hop.trans hop'.symm)
  exact eq_of_extract_all_eq (extract_eq_join (extract_eq_join hcoords hextents) htop)

theorem Carries.word_unique {i : Instr} (hw : Carries w i) (hv : Carries v i) : w = v := by
  cases i with
  | setpixel x y c =>
    obtain ⟨hop, hres, hc, hx, hy⟩ := hw
    obtain ⟨hop', hres', hc', hx', hy'⟩ := hv
    have hcoords := extract_coords_eq (hx.trans hx'.symm) (hy.trans hy'.symm)
    have htop := extract_eq_join (hres.trans hres'.symm) (hop.trans hop'.symm)
    exact eq_of_extract_all_eq (extract_eq_join (extract_eq_join hcoords (hc.trans hc'.symm)) htop)
  | clear => exact eq_of_extract_all_eq (extract_eq_join (hw.2.trans hv.2.symm) (hw.1.trans hv.1.symm))
  | sync x y rw rh => exact CarriesRegion.word_unique hw hv
  | update => exact eq_of_extract_all_eq (extract_eq_join (hw.2.trans hv.2.symm) (hw.1.trans hv.1.symm))
  | draw x y rw rh => exact CarriesRegion.word_unique hw hv

/-- Settles O2: the word of a well-formed operation carries it, and a word decodes to what it carries. -/
theorem decodeOfEncodeIsTheInstruction : Obligations.DecodeOfEncodeIsTheInstruction := fun _ hwf =>
  decode_of_carries (carries_encode hwf)

/-- Settles O3: a word decodes to what it carries, and the operation's own word is the only one that carries it. -/
theorem encodeOfDecodeIsTheWord : Obligations.EncodeOfDecodeIsTheWord := by
  intro w i hd
  have hw : Carries w i := carries_of_decode hd
  exact ⟨hw.wellFormed, (carries_encode hw.wellFormed).word_unique hw⟩

/-- Settles O1: one word of each operation, and a second SETPIXEL word, decoded. -/
theorem decodesWordsOfTheSpec : Obligations.DecodesWordsOfTheSpec := by
  unfold Obligations.DecodesWordsOfTheSpec
  decide

end Sys2Proof
end

section
/-!
SUPPORT. The opcode map (30_encoding.md R52): a row's `mask` keeps the bits from some bit up, and its `match` holds the opcode alone, so
the pair tests the opcode field and the reserved bits.
-/
namespace Sys2Proof

/-- The mask that keeps the bits from `n` up. -/
def maskFrom (n : Nat) : CommandWord := BitVec.allOnes 64 <<< n

theorem extract_and_maskFrom_below (w : CommandWord) (n : Nat) : (w &&& maskFrom n).extractLsb' 0 n = 0#n := by
  ext i hi
  simp [maskFrom, hi]

theorem extract_and_maskFrom_above (w : CommandWord) {n lo len : Nat} (hlo : n ≤ lo) (hlen : lo + len ≤ 64) :
    (w &&& maskFrom n).extractLsb' lo len = w.extractLsb' lo len := by
  ext i hi
  simp [maskFrom, -BitVec.reduceAllOnes, show ¬lo + i < n by omega, show lo + i < 64 by omega]

/-- `word & mask == match` says that the opcode is the row's and that the bits from `n` to 59, `len` of them, are zero (R52). -/
theorem and_maskFrom_eq_iff (w : CommandWord) (op : BitVec 4) {n len : Nat} (hlen : n + len = 60) :
    w &&& maskFrom n = place op 60 ↔ opField w = op ∧ w.extractLsb' n len = 0#len := by
  have hres : (w &&& maskFrom n).extractLsb' n len = w.extractLsb' n len :=
    extract_and_maskFrom_above w (Nat.le_refl n) (by omega)
  have hop : (w &&& maskFrom n).extractLsb' 60 4 = opField w := extract_and_maskFrom_above w (by omega) (Nat.le_refl 64)
  have hop' : (place op 60).extractLsb' 60 4 = op := extract_place op 60 (Nat.le_refl 64)
  have hres' : (place op 60).extractLsb' n len = 0#len := extract_place_beside op 60 n len (.inl hlen.le)
  have hlow' : (place op 60).extractLsb' 0 n = 0#n := extract_place_beside op 60 0 n (.inl (by omega))
  constructor
  · intro h
    rw [h] at hres hop
    exact ⟨hop.symm.trans hop', hres.symm.trans hres'⟩
  · rintro ⟨hopw, hresw⟩
    have hbelow : (w &&& maskFrom n).extractLsb' 0 n = (place op 60).extractLsb' 0 n :=
      (extract_and_maskFrom_below w n).trans hlow'.symm
    have hmiddle : (w &&& maskFrom n).extractLsb' (0 + n) len = (place op 60).extractLsb' (0 + n) len := by
      rw [Nat.zero_add, hres, hres', hresw]
    have htop : (w &&& maskFrom n).extractLsb' (0 + (n + len)) 4 = (place op 60).extractLsb' (0 + (n + len)) 4 := by
      rw [hlen, hop', hop, hopw]
    have hall := extract_eq_join (extract_eq_join hbelow hmiddle) htop
    rw [hlen] at hall
    exact eq_of_extract_all_eq hall

theorem exists_carries_setpixel_iff (w : CommandWord) :
    (∃ x y c, Carries w (.setpixel x y c)) ↔
      (opField w = 1#4 ∧ w.extractLsb' 34 26 = 0#26) ∧ w.extractLsb' 32 2 ≠ 3#2 := by
  simp [Carries, ← exists_colorCode_iff, and_assoc]

theorem exists_carriesRegion_iff (w : CommandWord) (op : BitVec 4) :
    (∃ x y rw rh, CarriesRegion w op x y rw rh) ↔ opField w = op ∧ w.extractLsb' 48 12 = 0#12 := by
  simp [CarriesRegion]

/-- Settles O4: a word decodes to what it carries, and a row's mask and match test the opcode and the reserved bits. -/
theorem matchAndMaskSelectTheOperation : Obligations.MatchAndMaskSelectTheOperation := by
  intro w
  simp only [decode_eq_ok_iff]
  refine ⟨?_, ?_, ?_, ?_, ?_, decode_reserved⟩
  · exact (exists_carries_setpixel_iff w).trans (and_congr_left' (and_maskFrom_eq_iff w 1#4 (n := 34) rfl).symm)
  · exact (and_maskFrom_eq_iff w 2#4 (n := 0) rfl).symm
  · exact (exists_carriesRegion_iff w 3#4).trans (and_maskFrom_eq_iff w 3#4 (n := 48) rfl).symm
  · exact (and_maskFrom_eq_iff w 4#4 (n := 0) rfl).symm
  · exact (exists_carriesRegion_iff w 5#4).trans (and_maskFrom_eq_iff w 5#4 (n := 48) rfl).symm

end Sys2Proof
end

section
/-!
SUPPORT. Refused words (30_encoding.md R53 to R55, 60_exceptions.md R103): an idle block that is presented a word the decoder refuses
records the decoder's reason and nothing else.
-/
namespace Sys2Proof.Machine

/-- A word the decoder refuses leaves only its mark (R57, R103). -/
theorem State.runWord_error (s : State) {word : CommandWord} {reason : RefusalReason} (hd : decode word = .error reason)
    (src : List Byte) (rest : List Input) : s.runWord word src rest = .next (s.refuse reason rest) := by
  simp only [State.runWord, hd]

/-- An idle block takes a refused word off the port and records its mark (R26, R103). -/
theorem step_refused_of_idle {s : State} {word : CommandWord} {src : List Byte} {rest : List Input} {reason : RefusalReason}
    (hidle : s.phase = .idle) (hin : s.inputs = .command word src :: rest) (hd : decode word = .error reason) :
    step s = .next (s.refuse reason rest) :=
  (step_command_of_idle hidle hin).trans (s.runWord_error hd src rest)

/-- Settles O5: the decoder refuses the word for its opcode. -/
theorem reservedOpcodeIsRefused : Obligations.ReservedOpcodeIsRefused := fun _ _ _ _ hidle hin hop =>
  step_refused_of_idle hidle hin (decode_reserved hop)

/-- Settles O6: each format refuses its own reserved bits. -/
theorem reservedBitsAreRefused : Obligations.ReservedBitsAreRefused := by
  intro s w src rest hidle hin hres
  refine step_refused_of_idle hidle hin ?_
  obtain ⟨hop, hbits⟩ | ⟨hop | hop, hbits⟩ | ⟨hop | hop, hbits⟩ := hres
  · exact (decode_setpixel hop).trans (decodePixel_reservedBits hbits)
  · exact (decode_clear hop).trans (decodePlain_reservedBits _ hbits)
  · exact (decode_update hop).trans (decodePlain_reservedBits _ hbits)
  · exact (decode_sync hop).trans (decodeRegion_reservedBits _ hbits)
  · exact (decode_draw hop).trans (decodeRegion_reservedBits _ hbits)

/-- Settles O7: the reserved bits are looked at before the color (R57). -/
theorem reservedColorIsRefused : Obligations.ReservedColorIsRefused := by
  intro s w src rest hidle hin hop hcolor
  refine step_refused_of_idle hidle hin ((decode_setpixel hop).trans ?_)
  split_ifs with hbits
  · exact decodePixel_reservedColor hbits hcolor
  · exact decodePixel_reservedBits hbits

/-- Settles O8: both operations are REGION over the whole panel, and a width of 256 does not fit its field (R59). -/
theorem updateIsTheFullSync : Obligations.UpdateIsTheFullSync := by
  rintro s ⟨-, ⟨-, hH, -⟩, -⟩
  constructor
  · intro hW
    refine ⟨?_, ?_⟩
    · exact wellFormed_sync_iff.mpr ⟨by decide, by decide, hW, hH.trans (by decide)⟩
    · calc exec .update s = s.runRegion (Region.wholePanel s.cfg) s.fbSource := exec_update s
        _ = exec (.sync 0 0 s.cfg.W s.cfg.H) s := (exec_sync 0 0 s.cfg.W s.cfg.H s).symm
  · intro hW w x y h hd
    obtain ⟨-, -, -, -, hrw, -⟩ := carries_of_decode hd
    have hle := rwField_le w
    omega

end Sys2Proof.Machine
end

section
/-!
SUPPORT. SETPIXEL as a map on the bits of the Frame Buffer (40_pixel_ops.md R63 to R66): what every byte and bit reads as after it. The
laws of R66 are laws of one bit, lifted to whole states by the canonical form of the memory.
-/
namespace Sys2Proof.Machine

/-- Two states that differ from a third in the Frame Buffer alone are equal where their buffers, in canonical form, have equal bits. -/
theorem State.eq_of_bits_eq {s t u : State} (ht : t = { s with fb := t.fb }) (hu : u = { s with fb := u.fb })
    (hwft : t.fb.wf = true) (hwfu : u.fb.wf = true)
    (hbits : ∀ i b, b < 8 → (t.fb.read i).getLsbD b = (u.fb.read i).getLsbD b) : t = u := by
  have hfb : t.fb = u.fb := Memory.eq_of_read_eq hwft hwfu fun i => BitVec.eq_of_getLsbD_eq (hbits i)
  rw [ht, hu, hfb]

/-- Painting a background or foreground bit again leaves it as it is (R66). -/
theorem paintedBit_paintedBit_same {color : Color} (h : color ≠ .inverse) (bit : Bool) :
    paintedBit color (paintedBit color bit) = paintedBit color bit := by
  cases color with
  | background => rfl
  | foreground => rfl
  | inverse => exact absurd rfl h

/-- Inverting a bit twice restores it (R66). -/
theorem paintedBit_inverse_inverse (bit : Bool) : paintedBit .inverse (paintedBit .inverse bit) = bit := Bool.not_not bit

section

variable (s : State) (x y : Int) (color : Color)

/-- Painting a pixel changes the Frame Buffer alone (R63, R68). -/
theorem State.paintPixel_frame : s.paintPixel x y color = { s with fb := (s.paintPixel x y color).fb } := by
  by_cases h : OnPanel s.cfg x y
  · rw [State.paintPixel_on _ _ _ _ h]
  · rw [State.paintPixel_off _ _ _ _ h]

/-- Painting a pixel does not depend on the phase, and so goes before or after the end of an operation. -/
theorem State.complete_paintPixel : s.complete.paintPixel x y color = (s.paintPixel x y color).complete := by
  by_cases h : OnPanel s.cfg x y
  · rw [State.paintPixel_on _ _ _ _ h]
    exact State.paintPixel_on s.complete _ _ _ h
  · rw [State.paintPixel_off _ _ _ _ h]
    exact State.paintPixel_off s.complete _ _ _ h

/-- Ending an operation leaves every pixel alone. -/
@[simp] theorem State.pixel_complete : s.complete.pixel x y = s.pixel x y := rfl

variable {s x y}

/-- Painting a pixel keeps the canonical form of the Frame Buffer. -/
theorem State.wf_paintPixel (hwf : s.fb.wf = true) : (s.paintPixel x y color).fb.wf = true := by
  by_cases h : OnPanel s.cfg x y
  · rw [State.paintPixel_on _ _ _ _ h]
    exact Memory.wf_write hwf _ _
  · rwa [State.paintPixel_off _ _ _ _ h]

/-- Every byte of the Frame Buffer after painting a pixel on it (R63). -/
theorem State.read_paintPixel_eq_ite (h : OnPanel s.cfg x y) (i : Nat) :
    (s.paintPixel x y color).fb.read i =
      if i = pixelIndex s.cfg x y then paint color (pixelMask y) (s.fb.read i) else s.fb.read i := by
  rw [State.paintPixel_on _ _ _ _ h, Memory.read_write]
  by_cases hi : i = pixelIndex s.cfg x y
  · rw [if_pos hi, if_pos hi, hi]
  · rw [if_neg hi, if_neg hi]

/-- Every bit of the Frame Buffer after painting a pixel on it (R65). -/
theorem State.getLsbD_paintPixel (h : OnPanel s.cfg x y) (i : Nat) {b : Nat} (hb : b < 8) :
    ((s.paintPixel x y color).fb.read i).getLsbD b =
      if i = pixelIndex s.cfg x y ∧ b = (y % 8).toNat then paintedBit color ((s.fb.read i).getLsbD b)
      else (s.fb.read i).getLsbD b := by
  rw [State.read_paintPixel_eq_ite color h]
  by_cases hi : i = pixelIndex s.cfg x y
  · rw [if_pos hi, getLsbD_paint _ _ _ hb, getLsbD_pixelMask y hb]
    simp only [hi, true_and, decide_eq_true_eq]
  · rw [if_neg hi, if_neg fun heq => hi heq.1]

end

section

variable {s : State} {x y : Int}

/-- The pixel just painted (R65). -/
theorem State.pixel_paintPixel_same (color : Color) (h : OnPanel s.cfg x y) :
    (s.paintPixel x y color).pixel x y = paintedBit color (s.pixel x y) :=
  (State.pixel_paintPixel color h h).trans (if_pos ⟨rfl, rfl⟩)

/-- The bits of the Frame Buffer after painting one pixel twice. -/
theorem State.getLsbD_paintPixel_twice (color color' : Color) (h : OnPanel s.cfg x y) (i : Nat) {b : Nat} (hb : b < 8) :
    (((s.paintPixel x y color).paintPixel x y color').fb.read i).getLsbD b =
      if i = pixelIndex s.cfg x y ∧ b = (y % 8).toNat then paintedBit color' (paintedBit color ((s.fb.read i).getLsbD b))
      else (s.fb.read i).getLsbD b := by
  rw [State.getLsbD_paintPixel color' (by rwa [State.paintPixel_cfg]) i hb, State.getLsbD_paintPixel color h i hb,
    State.paintPixel_cfg]
  split <;> rfl

/-- Two pixels painted in a row change the Frame Buffer alone. -/
theorem State.paintPixel_paintPixel_frame (s : State) (x y x' y' : Int) (color color' : Color) :
    (s.paintPixel x y color).paintPixel x' y' color' =
      { s with fb := ((s.paintPixel x y color).paintPixel x' y' color').fb } := by
  calc (s.paintPixel x y color).paintPixel x' y' color'
      = { s.paintPixel x y color with fb := ((s.paintPixel x y color).paintPixel x' y' color').fb } :=
        State.paintPixel_frame ..
    _ = { s with fb := ((s.paintPixel x y color).paintPixel x' y' color').fb } := by
        rw [State.paintPixel_frame s x y color]

/-- Painting a pixel background or foreground twice is painting it once (R66). -/
theorem State.paintPixel_same_twice (hwf : s.fb.wf = true) {color : Color} (hcolor : color ≠ .inverse) :
    (s.paintPixel x y color).paintPixel x y color = s.paintPixel x y color := by
  by_cases h : OnPanel s.cfg x y
  · refine State.eq_of_bits_eq (State.paintPixel_paintPixel_frame ..) (State.paintPixel_frame ..)
      (State.wf_paintPixel _ (State.wf_paintPixel _ hwf)) (State.wf_paintPixel _ hwf) ?_
    intro i b hb
    rw [State.getLsbD_paintPixel_twice _ _ h i hb, State.getLsbD_paintPixel _ h i hb, paintedBit_paintedBit_same hcolor]
  · rw [State.paintPixel_off _ _ _ _ h, State.paintPixel_off _ _ _ _ h]

/-- Inverting a pixel twice restores the state (R66). -/
theorem State.paintPixel_inverse_twice (hwf : s.fb.wf = true) :
    (s.paintPixel x y .inverse).paintPixel x y .inverse = s := by
  by_cases h : OnPanel s.cfg x y
  · refine State.eq_of_bits_eq (State.paintPixel_paintPixel_frame ..) rfl
      (State.wf_paintPixel _ (State.wf_paintPixel _ hwf)) hwf ?_
    intro i b hb
    rw [State.getLsbD_paintPixel_twice _ _ h i hb, paintedBit_inverse_inverse, ite_self]
  · rw [State.paintPixel_off _ _ _ _ h, State.paintPixel_off _ _ _ _ h]

/-- Two pixels of the panel may be painted in either order: no bit belongs to both (R16, R66). -/
theorem State.paintPixel_comm (hwf : s.fb.wf = true) {x' y' : Int} (color color' : Color) (h : OnPanel s.cfg x y)
    (h' : OnPanel s.cfg x' y') (hne : x ≠ x' ∨ y ≠ y') :
    (s.paintPixel x y color).paintPixel x' y' color' = (s.paintPixel x' y' color').paintPixel x y color := by
  refine State.eq_of_bits_eq (State.paintPixel_paintPixel_frame ..) (State.paintPixel_paintPixel_frame ..)
    (State.wf_paintPixel _ (State.wf_paintPixel _ hwf)) (State.wf_paintPixel _ (State.wf_paintPixel _ hwf)) ?_
  intro i b hb
  rw [State.getLsbD_paintPixel color' (by rwa [State.paintPixel_cfg]) i hb, State.getLsbD_paintPixel color h i hb,
    State.getLsbD_paintPixel color (by rwa [State.paintPixel_cfg]) i hb, State.getLsbD_paintPixel color' h' i hb,
    State.paintPixel_cfg, State.paintPixel_cfg]
  by_cases hfirst : i = pixelIndex s.cfg x y ∧ b = (y % 8).toNat
  · have hsecond : ¬(i = pixelIndex s.cfg x' y' ∧ b = (y' % 8).toNat) := by
      rintro ⟨hi, hbit⟩
      obtain ⟨hx, hy⟩ := pixel_eq_of_address_eq h' h (hfirst.1.symm.trans hi) (hfirst.2.symm.trans hbit)
      exact hne.elim (· hx) (· hy)
    simp only [if_pos hfirst, if_neg hsecond]
  · simp only [if_neg hfirst]

end

/-- What two SETPIXELs in a row leave: the pixels painted in that order, and an idle block (R63, R26). -/
theorem next_of_setpixel_setpixel {s s₁ s₂ : State} {x y x' y' : Int} {color color' : Color}
    (h₁ : exec (.setpixel x y color) s = .next s₁) (h₂ : exec (.setpixel x' y' color') s₁ = .next s₂) :
    s₁ = (s.paintPixel x y color).complete ∧ s₂ = ((s.paintPixel x y color).paintPixel x' y' color').complete := by
  cases (exec_setpixel x y color s).symm.trans h₁
  cases (exec_setpixel x' y' color' _).symm.trans h₂
  rw [State.complete_paintPixel]
  exact ⟨rfl, rfl⟩

/-- Settles O9: the byte is painted with the row's mask, and painting changes the Frame Buffer alone. -/
theorem setPixelWritesItsByte : Obligations.SetPixelWritesItsByte := by
  intro s x y color hx hxW hy hyH
  have h : OnPanel s.cfg x y := ⟨⟨hx, hxW⟩, hy, hyH⟩
  refine ⟨_, exec_setpixel x y color s, congrArg State.complete (s.paintPixel_frame x y color), fun i => ?_⟩
  rw [← pixelIndex_eq h]
  refine (State.read_paintPixel_eq_ite color h i).trans ?_
  cases color <;> rfl

/-- Settles O10: such coordinates are not on the panel, and painting there does nothing. -/
theorem setPixelOffTheBufferChangesNothing : Obligations.SetPixelOffTheBufferChangesNothing := by
  intro s x y color hoff
  have h : ¬OnPanel s.cfg x y := by omega
  rw [exec_setpixel, State.paintPixel_off _ _ _ _ h]
  rfl

/-- Settles O11: bit by bit, painting changes the bit of its mask alone. -/
theorem setPixelChangesOneBit : Obligations.SetPixelChangesOneBit := by
  intro s x y color hx hxW hy hyH
  have h : OnPanel s.cfg x y := ⟨⟨hx, hxW⟩, hy, hyH⟩
  refine ⟨_, exec_setpixel x y color s, fun i b hb => ?_⟩
  rw [← pixelIndex_eq h]
  refine (State.getLsbD_paintPixel color h i hb).trans ?_
  cases color <;> rfl

/-- Settles O13: each run leaves two pixels painted in a row, so its law is a law of painting. -/
theorem setPixelLaws : Obligations.SetPixelLaws := by
  intro s x y hwf
  refine ⟨?_, ?_, fun hx hxW hy hyH => ?_⟩
  · intro color s₁ s₂ hcolor h₁ h₂
    obtain ⟨rfl, rfl⟩ := next_of_setpixel_setpixel h₁ h₂
    rw [State.paintPixel_same_twice hwf hcolor]
  · intro s₁ s₂ h₁ h₂
    obtain ⟨-, rfl⟩ := next_of_setpixel_setpixel h₁ h₂
    rw [State.paintPixel_inverse_twice hwf]
    rfl
  have h : OnPanel s.cfg x y := ⟨⟨hx, hxW⟩, hy, hyH⟩
  refine ⟨?_, ?_, ?_⟩
  · intro s₁ s₂ h₁ h₂
    obtain ⟨-, rfl⟩ := next_of_setpixel_setpixel h₁ h₂
    exact State.pixel_paintPixel_same .background (by rwa [State.paintPixel_cfg])
  · intro s₁ s₂ h₁ h₂
    obtain ⟨-, rfl⟩ := next_of_setpixel_setpixel h₁ h₂
    exact State.pixel_paintPixel_same .foreground (by rwa [State.paintPixel_cfg])
  · intro x' y' color color' s₁ s₂ s₁' s₂' hx' hxW' hy' hyH' hne h₁ h₂ h₁' h₂'
    obtain ⟨-, rfl⟩ := next_of_setpixel_setpixel h₁ h₂
    obtain ⟨-, rfl⟩ := next_of_setpixel_setpixel h₁' h₂'
    rw [State.paintPixel_comm hwf color color' h ⟨⟨hx', hxW'⟩, hy', hyH'⟩ hne]

end Sys2Proof.Machine
end

section
/-!
SUPPORT. CLEAR (40_pixel_ops.md R67 to R69): it is the loop of writes of its pseudocode, and every pixel is Background after it.
-/
namespace Sys2Proof.Machine

/-- Zeroing no byte changes nothing. -/
theorem Memory.zeroBelow_zero (m : Memory) : m.zeroBelow 0 = m :=
  List.filter_eq_self.mpr fun _ _ => decide_eq_true (Nat.zero_le _)

/-- Zeroing one byte more is a write of zero after zeroing those below it. -/
theorem Memory.zeroBelow_succ {m : Memory} (h : m.wf = true) (n : Nat) :
    m.zeroBelow (n + 1) = (m.zeroBelow n).write n 0x00#8 := by
  refine Memory.eq_of_read_eq (Memory.wf_zeroBelow h _) (Memory.wf_write (Memory.wf_zeroBelow h _) _ _) fun a => ?_
  rw [Memory.read_zeroBelow, Memory.read_write, Memory.read_zeroBelow]
  obtain hlt | rfl | hgt := Nat.lt_trichotomy a n
  · rw [if_pos (by omega), if_neg (by omega), if_pos hlt]
  · rw [if_pos (by omega), if_pos rfl]
    rfl
  · rw [if_neg (by omega), if_neg (by omega), if_neg (by omega)]

/-- The write loop of R67 zeroes the bytes below its bound. -/
theorem Memory.foldl_write_zero_range {m : Memory} (h : m.wf = true) (n : Nat) :
    (List.range n).foldl (fun m i => m.write i 0x00#8) m = m.zeroBelow n := by
  induction n with
  | zero => exact m.zeroBelow_zero.symm
  | succ n ih => rw [List.range_succ, List.foldl_append, ih, Memory.zeroBelow_succ h]; rfl

/-- Every pixel of the panel is Background after CLEAR (R69). -/
theorem pixel_of_exec_clear {s t : State} (hl : s.cfg.Legal) (hclear : exec .clear s = .next t) {x y : Int}
    (h : OnPanel s.cfg x y) : t.pixel x y = false := by
  have ht : OnPanel t.cfg x y := by rwa [cfg_of_exec_next hclear]
  cases (exec_clear s).symm.trans hclear
  rw [State.pixel_eq ht, Memory.read_zeroBelow, if_pos (pixelIndex_lt hl h)]
  exact BitVec.getLsbD_zero

/-- Settles O14: what a byte reads as after the buffer was zeroed. -/
theorem clearZeroesTheBuffer : Obligations.ClearZeroesTheBuffer := fun s =>
  ⟨_, exec_clear s, rfl, Memory.read_zeroBelow s.fb s.cfg.bufLen⟩

/-- Settles O15, by induction on the length of the loop. -/
theorem clearIsTheWriteLoop : Obligations.ClearIsTheWriteLoop := by
  intro s hwf
  rw [exec_clear, Memory.foldl_write_zero_range hwf]

/-- Settles O16: CLEAR leaves the pixel's bit 0, and Inverse complements it. -/
theorem clearThenInverseIsForeground : Obligations.ClearThenInverseIsForeground := by
  intro s s₁ hl hclear x y hx hxW hy hyH
  have h : OnPanel s.cfg x y := ⟨⟨hx, hxW⟩, hy, hyH⟩
  have hcfg : s₁.cfg = s.cfg := cfg_of_exec_next hclear
  have hpixel : s₁.pixel x y = false := pixel_of_exec_clear hl hclear h
  have hinverse : (s₁.paintPixel x y .inverse).pixel x y = paintedBit .inverse (s₁.pixel x y) :=
    State.pixel_paintPixel_same .inverse (by rwa [hcfg])
  exact ⟨hpixel, _, exec_setpixel .., by rw [State.pixel_complete, hinverse, hpixel]; rfl⟩

end Sys2Proof.Machine
end

section
/-!
SUPPORT. The geometry of a region (41_region_sync.md R74 to R84): which of its columns and bands are on the panel, and at which column
and page a shown band is sent.
-/
namespace Sys2Proof.Machine

section

variable (c : Config) (r : Region)

/-- A column index is on the panel where its display column is (R79). -/
theorem Region.visible_iff (tx : Nat) : r.visible c tx = true ↔ 0 ≤ r.x + (tx : Int) ∧ r.x + (tx : Int) < c.W :=
  decide_eq_true_iff

/-- The column indexes on the panel, as bounds on the index (R84). -/
theorem Region.visible_iff_in_run {tx : Nat} (htx : tx < r.w) :
    r.visible c tx = true ↔ r.firstColumn ≤ tx ∧ tx < r.firstColumn + r.columnCount c := by
  rw [Region.visible_iff, Region.firstColumn, Region.columnCount]
  omega

/-- Where a column is on the panel, the run of columns on it ends inside the region (R84). -/
theorem Region.firstColumn_add_columnCount_le (h : 0 < r.columnCount c) : r.firstColumn + r.columnCount c ≤ r.w := by
  rw [Region.columnCount] at h
  rw [Region.firstColumn, Region.columnCount]
  omega

/-- The column indexes on the panel, in order, are a contiguous run (R84). -/
theorem Region.filter_visible_range :
    (List.range r.w).filter (r.visible c) = (List.range (r.columnCount c)).map (r.firstColumn + ·) := by
  rw [← List.range'_eq_map_range]
  refine (List.pairwise_lt_range.filter _).sortedLT.eq_of_mem_iff (List.sortedLT_range' _ _ Nat.one_ne_zero) fun tx => ?_
  rw [List.mem_filter, List.mem_range, List.mem_range'_1]
  constructor
  · rintro ⟨htx, hv⟩
    exact (r.visible_iff_in_run c htx).mp hv
  · intro hrun
    have hle := r.firstColumn_add_columnCount_le c (by omega)
    have htx : tx < r.w := by omega
    exact ⟨htx, (r.visible_iff_in_run c htx).mpr hrun⟩

/-- The run of columns on the panel is shown from display column `max(x, 0)` on (R84). -/
theorem Region.displayColumn (j : Nat) : r.x + ((r.firstColumn + j : Nat) : Int) = max r.x 0 + (j : Int) := by
  rw [Region.firstColumn]
  omega

/-- The run of columns on the panel ends on it (R84). -/
theorem Region.max_x_add_columnCount_le (h : 0 < r.columnCount c) : max r.x 0 + (r.columnCount c : Int) ≤ c.W := by
  rw [Region.columnCount] at h ⊢
  omega

/-- On a panel no wider than the column register reaches, the register holds the display column whole (R75, R84). -/
theorem Region.startCol_toNat (hW : c.W ≤ 256) (h : 0 < r.columnCount c) : r.startCol.toNat = (max r.x 0).toNat := by
  have hle := r.max_x_add_columnCount_le c h
  rw [Region.startCol, BitVec.toNat_ofNat]
  omega

/-- No column of a region beside the panel, or of one without width, is on the panel (R87). -/
theorem Region.not_visible_of_clipped (h : r.w = 0 ∨ (c.W : Int) ≤ r.x ∨ r.x + (r.w : Int) ≤ 0) {tx : Nat} (htx : tx < r.w) :
    r.visible c tx ≠ true := by
  rw [Ne, Region.visible_iff]
  omega

/-- A region beside the panel, or one without width, shows no column (R87). -/
theorem Region.columnCount_of_clipped (h : r.w = 0 ∨ (c.W : Int) ≤ r.x ∨ r.x + (r.w : Int) ≤ 0) : r.columnCount c = 0 := by
  rw [Region.columnCount]
  omega

/-- Under `ANY_ROW` a band is skipped where one of its rows is off the panel (R77). -/
theorem Region.skipped_anyRow_iff (hc : c.vclip = .anyRow) (k : Nat) :
    r.skipped c k = true ↔ r.top k < 0 ∨ (c.H : Int) - 1 < r.bottom k := by
  rw [Region.skipped, hc]
  exact decide_eq_true_iff

/-- Under `TOP_ROW` a band is skipped where its top row is off the panel (R77). -/
theorem Region.skipped_topRow_iff (hc : c.vclip = .topRow) (k : Nat) :
    r.skipped c k = true ↔ r.top k < 0 ∨ (c.H : Int) - 1 < r.top k := by
  rw [Region.skipped, hc]
  exact decide_eq_true_iff

variable {c r}

/-- A band ends at or below its top row (R72, R74). -/
theorem Region.top_le_bottom {k : Nat} (hk : k < r.bandCount) : r.top k ≤ r.bottom k := by
  rw [Region.bandCount] at hk
  rw [Region.top, Region.bottom]
  omega

/-- Under either rule the top row of a shown band is on the panel (R77, R83). -/
theorem Region.top_of_shown {k : Nat} (hk : k < r.bandCount) (hs : r.skipped c k = false) : 0 ≤ r.top k ∧ r.top k < c.H := by
  have hle := Region.top_le_bottom hk
  rw [← Bool.not_eq_true] at hs
  cases hc : c.vclip with
  | anyRow => rw [r.skipped_anyRow_iff c hc] at hs; omega
  | topRow => rw [r.skipped_topRow_iff c hc] at hs; omega

/-- Under either rule a band wholly on the panel is shown (R77). -/
theorem Region.shown_of_rows {k : Nat} (hk : k < r.bandCount) (htop : 0 ≤ r.top k) (hbottom : r.bottom k < c.H) :
    r.skipped c k = false := by
  have hle := Region.top_le_bottom hk
  rw [← Bool.not_eq_true]
  cases hc : c.vclip with
  | anyRow => rw [r.skipped_anyRow_iff c hc]; omega
  | topRow => rw [r.skipped_topRow_iff c hc]; omega

/-- Above a shown band, a skipped band lies above the panel: no band is skipped at the bottom edge before one that is shown. -/
theorem Region.top_neg_of_skipped_before_shown {k : Nat} (hk : k + 1 < r.bandCount) (hs : r.skipped c (k + 1) = false)
    (hskip : r.skipped c k = true) : r.top k < 0 := by
  obtain ⟨-, htop⟩ := Region.top_of_shown hk hs
  rw [← Bool.not_eq_true] at hs
  rw [Region.bandCount] at hk
  cases hc : c.vclip with
  | anyRow =>
    rw [r.skipped_anyRow_iff c hc] at hs hskip
    rw [Region.top, Region.bottom] at *
    omega
  | topRow =>
    rw [r.skipped_topRow_iff c hc] at hskip
    rw [Region.top] at *
    omega

/-- The page of a shown band is one of the panel's pages (R83). -/
theorem Region.page_of_shown (hH : c.H % 8 = 0) {k : Nat} (hk : k < r.bandCount) (hs : r.skipped c k = false) :
    0 ≤ (r.y + 8 * (k : Int)) / 8 ∧ (r.y + 8 * (k : Int)) / 8 ≤ (c.pageCount : Int) - 1 := by
  obtain ⟨htop, hlt⟩ := Region.top_of_shown hk hs
  rw [Region.top] at htop hlt
  rw [Config.pageCount]
  omega

/-- The page a shown band is sent at is below `PAGES` (R83). -/
theorem Region.bandPage_lt_pageCount (hH : c.H % 8 = 0) {k : Nat} (hk : k < r.bandCount) (hs : r.skipped c k = false) :
    r.bandPage k < c.pageCount := by
  have hpage := Region.page_of_shown hH hk hs
  rw [Region.bandPage]
  omega

/-- No legal panel has more than 16 pages (R6). -/
theorem pageCount_le_of_legal (hl : c.Legal) : c.pageCount ≤ 16 := by
  obtain ⟨-, ⟨-, hH, -⟩, -⟩ := hl
  exact Nat.div_le_of_le_mul hH

/-- A page below 16 fits its nibble (R60, R83). -/
theorem setWidth_ofNat_four {page : Nat} (hp : page < 16) : (BitVec.ofNat 4 page).setWidth 8 = BitVec.ofNat 8 page := by
  apply BitVec.eq_of_toNat_eq
  simp only [BitVec.toNat_setWidth, BitVec.toNat_ofNat]
  omega

/-- The page nibble overlaps no bit of a legal page code, so the page command is their sum (R60, R83). -/
theorem pageByte_eq_add (hcode : c.cmdPage &&& 0x0F#8 = 0#8) {page : Nat} (hp : page < 16) :
    pageByte c page = c.cmdPage + BitVec.ofNat 8 page := by
  have hlow : BitVec.ofNat 8 page = 0x0F#8 &&& BitVec.ofNat 8 page := by
    revert page
    decide
  have hdisjoint : c.cmdPage &&& BitVec.ofNat 8 page = 0#8 := by
    rw [hlow, ← BitVec.and_assoc, hcode, BitVec.zero_and]
  rw [pageByte, setWidth_ofNat_four hp, BitVec.add_eq_or_of_and_eq_zero _ _ hdisjoint]

end

/-- Settles O17: the columns on the panel are those between the two bounds of R84, whose first the column register holds. -/
theorem columnsOnThePanelAreContiguous : Obligations.ColumnsOnThePanelAreContiguous := by
  intro c r hl
  obtain ⟨⟨-, hW⟩, -⟩ := hl
  refine ⟨r.filter_visible_range c, fun j _ => r.displayColumn j, fun hpos => ?_⟩
  rw [r.startCol_toNat c hW hpos]
  exact Int.toNat_of_nonneg (le_max_right ..)

/-- Settles O18: the top row of a shown band is on the panel, and a page of a legal panel fits the nibble. -/
theorem pageOfEveryShownBandIsOnThePanel : Obligations.PageOfEveryShownBandIsOnThePanel := by
  intro c r k hl hk hs
  have hpages := pageCount_le_of_legal hl
  obtain ⟨-, ⟨-, -, hH⟩, -, -, hcode⟩ := hl
  obtain ⟨hnonneg, hle⟩ := Region.page_of_shown hH hk hs
  have hlt := Region.bandPage_lt_pageCount hH hk hs
  exact ⟨hnonneg, hle, by omega, pageByte_eq_add hcode (by omega)⟩

/-- Settles O19: the rules look at the bottom row and at the top row of the band, and the bottom row is not above the top row. -/
theorem clipRulesDifferOnlyAtTheBottomEdge : Obligations.ClipRulesDifferOnlyAtTheBottomEdge := by
  intro c r k hk
  have hle := Region.top_le_bottom hk
  have hany : r.skipped { c with vclip := .anyRow } k = true ↔ r.top k < 0 ∨ (c.H : Int) - 1 < r.bottom k :=
    r.skipped_anyRow_iff _ rfl k
  have htop : r.skipped { c with vclip := .topRow } k = true ↔ r.top k < 0 ∨ (c.H : Int) - 1 < r.top k :=
    r.skipped_topRow_iff _ rfl k
  rw [Ne, Bool.eq_iff_iff, hany, htop]
  constructor
  · constructor
    · intro hdiff
      by_contra hnot
      exact hdiff (by omega)
    · rintro ⟨hnonneg, hlt, hbelow⟩ hsame
      omega
  · omega

end Sys2Proof.Machine
end

section
/-!
SUPPORT. What REGION sends (41_region_sync.md R71 to R84): its loops, one spec each, say that it sends the closed form of its region, or
stops at the first offset past its source. Every claim about SYNC, UPDATE and DRAW is derived from `regionOperation_cases`.
-/
namespace Sys2Proof.Machine

/-! What it means to stay within a source, and to overrun it first. -/

/-- The source port gives the bytes below the source's length, and nothing past it (R33, R34). -/
def ReadsAs (source : Nat → Option Byte) (len : Nat) (bytes : Nat → Byte) : Prop :=
  ∀ off, source off = if off < len then some (bytes off) else none

/-- Band `k` reads no offset past the source (R81); `Region.NoOverrun` says it of every band. -/
def Region.BandWithin (c : Config) (r : Region) (len k : Nat) : Prop :=
  r.skipped c k = false → ∀ tx, tx < r.w → r.visible c tx = true → r.w * k + tx < len

/-- Column `tx` is the first of band `k` whose offset is past the source. -/
def Region.FirstOverrunOfBand (c : Config) (r : Region) (len k tx : Nat) : Prop :=
  (tx < r.w ∧ r.visible c tx = true ∧ len ≤ r.w * k + tx) ∧
  ∀ tx', tx' < tx → r.visible c tx' = true → r.w * k + tx' < len

/-- Column `tx` of band `k` is the first of the region whose offset is past the source, in the order REGION reads (R81). -/
def Region.FirstOverrun (c : Config) (r : Region) (len k tx : Nat) : Prop :=
  (k < r.bandCount ∧ r.skipped c k = false) ∧ r.FirstOverrunOfBand c len k tx ∧ ∀ k', k' < k → r.BandWithin c len k'

/-- How REGION stops at column `tx` of band `k` (R81). -/
def Region.overrunAt (r : Region) (k tx : Nat) : Overrun :=
  { off := r.w * k + tx, k := k, tx := tx, page := r.bandPage k }

/-- The part of a range before one of its elements. -/
theorem eq_range_of_range_eq_append {n m : Nat} {pre post : List Nat} (h : List.range n = pre ++ m :: post) :
    pre = List.range m ∧ m < n := by
  rw [List.range_eq_range', List.range'_eq_append_iff] at h
  obtain ⟨i, hi, hpre, hpost⟩ := h
  obtain ⟨him, hlt, -⟩ := List.range'_eq_cons_iff.mp hpost.symm
  obtain rfl : i = m := by omega
  exact ⟨by rw [hpre, List.range_eq_range'], by omega⟩

section

variable (c : Config) (r : Region)

/-- The data events of the columns on the panel among `txs` (R79, R80). -/
def Region.columnData (bytes : Nat → Byte) (k : Nat) (txs : List Nat) : List Event :=
  (txs.filter (r.visible c)).map fun t => .data (bytes (r.w * k + t))

/-- A band's stream is its cursor and the data of its columns (R78). -/
theorem Region.bandStream_eq (bytes : Nat → Byte) (k : Nat) :
    r.bandStream c bytes k = cursor c r.startCol (r.bandPage k) ++ r.columnData c bytes k (List.range r.w) := by
  rw [Region.bandStream, Region.columnData, Region.filter_visible_range, List.map_map]
  rfl

/-- A column off the panel adds no data (R79). -/
theorem Region.columnData_clipped (bytes : Nat → Byte) (k : Nat) {tx : Nat} {txs : List Nat} (h : r.visible c tx = false) :
    r.columnData c bytes k (tx :: txs) = r.columnData c bytes k txs := by
  simp [Region.columnData, h]

/-- A column on the panel adds its byte (R80). -/
theorem Region.columnData_sent (bytes : Nat → Byte) (k : Nat) {tx : Nat} {txs : List Nat} (h : r.visible c tx = true) :
    r.columnData c bytes k (tx :: txs) = .data (bytes (r.w * k + tx)) :: r.columnData c bytes k txs := by
  simp [Region.columnData, h]

variable {source : Nat → Option Byte} {len : Nat} {bytes : Nat → Byte} (hsrc : ReadsAs source len bytes)
include hsrc

/-- Everything the column loop can do: send its columns on the panel, or stop at the first of them past the source (R79 to R81). -/
theorem columnRun_cases (k page : Nat) (txs : List Nat) :
    ((∀ tx ∈ txs, r.visible c tx = true → r.w * k + tx < len) ∧
      columnRun c r source k page txs = { events := r.columnData c bytes k txs, stop := none }) ∨
    ∃ pre tx post, txs = pre ++ tx :: post ∧ r.visible c tx = true ∧ len ≤ r.w * k + tx ∧
      (∀ t ∈ pre, r.visible c t = true → r.w * k + t < len) ∧
      columnRun c r source k page txs =
        { events := r.columnData c bytes k pre, stop := some { off := r.w * k + tx, k := k, tx := tx, page := page } } := by
  induction txs with
  | nil => exact .inl ⟨by simp, rfl⟩
  | cons tx txs ih =>
    cases hv : r.visible c tx with
    | false =>
      rw [columnRun_clipped c r source hv]
      obtain ⟨hwithin, hrun⟩ | ⟨pre, t, post, rfl, ht, hlen, hwithin, hrun⟩ := ih
      · exact .inl ⟨by simpa [hv] using hwithin, by rw [hrun, Region.columnData_clipped c r _ _ hv]⟩
      · exact .inr ⟨tx :: pre, t, post, rfl, ht, hlen, by simpa [hv] using hwithin,
          by rw [hrun, Region.columnData_clipped c r _ _ hv]⟩
    | true =>
      by_cases hoff : r.w * k + tx < len
      · have hb : source (r.offset k tx) = some (bytes (r.w * k + tx)) := (hsrc _).trans (if_pos hoff)
        rw [columnRun_sent c r source hv hb]
        obtain ⟨hwithin, hrun⟩ | ⟨pre, t, post, rfl, ht, hlen, hwithin, hrun⟩ := ih
        · exact .inl ⟨by simpa [hv, hoff] using hwithin, by rw [hrun, Region.columnData_sent c r _ _ hv]⟩
        · exact .inr ⟨tx :: pre, t, post, rfl, ht, hlen, by simpa [hv, hoff] using hwithin,
            by rw [hrun, Region.columnData_sent c r _ _ hv]⟩
      · have hb : source (r.offset k tx) = none := (hsrc _).trans (if_neg hoff)
        rw [columnRun_stopped c r source hv hb]
        exact .inr ⟨[], tx, txs, rfl, hv, by omega, by simp, rfl⟩

/-- What a shown band does: send its stream's data, or stop at its first column past the source. -/
theorem columnRun_band_cases (k page : Nat) :
    (r.BandWithin c len k ∧
      columnRun c r source k page (List.range r.w) =
        { events := r.columnData c bytes k (List.range r.w), stop := none }) ∨
    ∃ tx, r.FirstOverrunOfBand c len k tx ∧
      columnRun c r source k page (List.range r.w) =
        { events := r.columnData c bytes k (List.range tx),
          stop := some { off := r.w * k + tx, k := k, tx := tx, page := page } } := by
  obtain ⟨hwithin, hrun⟩ | ⟨pre, tx, post, hsplit, hv, hlen, hwithin, hrun⟩ :=
    columnRun_cases c r hsrc k page (List.range r.w)
  · exact .inl ⟨fun _ tx htx => hwithin tx (List.mem_range.mpr htx), hrun⟩
  · obtain ⟨rfl, htx⟩ := eq_range_of_range_eq_append hsplit
    exact .inr ⟨tx, ⟨⟨htx, hv, hlen⟩, fun t ht => hwithin t (List.mem_range.mpr ht)⟩, hrun⟩

end

/-! The page register (R76, R82, R83). -/

section

variable (c : Config) (r : Region)

/-- The bands of a list that are not skipped (R77). -/
def Region.shownOf (ks : List Nat) : List Nat := ks.filter fun k => !r.skipped c k

variable {c r}

theorem Region.shownBands_eq : r.shownBands c = r.shownOf c (List.range r.bandCount) := rfl

theorem Region.mem_shownOf {k : Nat} {ks : List Nat} : k ∈ r.shownOf c ks ↔ k ∈ ks ∧ r.skipped c k = false := by
  simp [Region.shownOf]

theorem Region.shownOf_skipped {k : Nat} {ks : List Nat} (h : r.skipped c k = true) :
    r.shownOf c (k :: ks) = r.shownOf c ks := by
  simp [Region.shownOf, h]

theorem Region.shownOf_shown {k : Nat} {ks : List Nat} (h : r.skipped c k = false) :
    r.shownOf c (k :: ks) = k :: r.shownOf c ks := by
  simp [Region.shownOf, h]

/-- Of the shown bands of a region, those before band `k` are those of a shorter range. -/
theorem Region.filter_lt_shownBands {k : Nat} (hk : k ≤ r.bandCount) :
    (r.shownBands c).filter (· < k) = r.shownOf c (List.range k) := by
  have hsorted (n : Nat) : (r.shownOf c (List.range n)).Pairwise (· < ·) := List.pairwise_lt_range.filter _
  rw [Region.shownBands_eq]
  refine ((hsorted r.bandCount).filter _).sortedLT.eq_of_mem_iff (hsorted k).sortedLT fun j => ?_
  simp only [List.mem_filter, Region.mem_shownOf, List.mem_range, decide_eq_true_eq]
  constructor
  · rintro ⟨⟨-, hs⟩, hj⟩
    exact ⟨hj, hs⟩
  · rintro ⟨hj, hs⟩
    exact ⟨⟨by omega, hs⟩, hj⟩

/-- Started at `page`, a register that advances with each shown band of `ks` holds the page of each of them when it is sent. -/
def Region.PagesFollow (c : Config) (r : Region) (ks : List Nat) (page : Nat) : Prop :=
  ∀ pre k post, ks = pre ++ k :: post → r.skipped c k = false → page + (r.shownOf c pre).length = r.bandPage k

theorem Region.PagesFollow.of_skipped {k : Nat} {ks : List Nat} {page : Nat} (h : r.PagesFollow c (k :: ks) page)
    (hk : r.skipped c k = true) : r.PagesFollow c ks page := by
  intro pre k' post hsplit hk'
  rw [← Region.shownOf_skipped hk]
  exact h (k :: pre) k' post (by rw [hsplit, List.cons_append]) hk'

theorem Region.PagesFollow.of_shown {k : Nat} {ks : List Nat} {page : Nat} (h : r.PagesFollow c (k :: ks) page)
    (hk : r.skipped c k = false) : page = r.bandPage k ∧ r.PagesFollow c ks (page + 1) := by
  refine ⟨h [] k ks rfl hk, fun pre k' post hsplit hk' => ?_⟩
  have := h (k :: pre) k' post (by rw [hsplit, List.cons_append]) hk'
  rw [Region.shownOf_shown hk, List.length_cons] at this
  omega

/-- The page register reaches a shown band holding the band's page: the bands before it that are not above the panel were shown. -/
theorem Region.startPage_add_shown_before {k : Nat} (hk : k < r.bandCount) (hs : r.skipped c k = false) :
    r.startPage + (r.shownOf c (List.range k)).length = r.bandPage k := by
  induction k with
  | zero =>
    obtain ⟨htop, -⟩ := Region.top_of_shown hk hs
    rw [Region.top] at htop
    rw [Region.startPage, Region.bandPage, if_neg (by omega)]
    simp [Region.shownOf]
  | succ k ih =>
    obtain ⟨htop, -⟩ := Region.top_of_shown hk hs
    rw [Region.top] at htop
    cases hprev : r.skipped c k with
    | false =>
      obtain ⟨htopPrev, -⟩ := Region.top_of_shown (by omega) hprev
      have := ih (by omega) hprev
      have hone : (r.shownOf c (List.range (k + 1))).length = (r.shownOf c (List.range k)).length + 1 := by
        simp [Region.shownOf, List.range_succ, hprev]
      rw [Region.top] at htopPrev
      rw [Region.bandPage] at this ⊢
      omega
    | true =>
      have hneg := Region.top_neg_of_skipped_before_shown hk hs hprev
      rw [Region.top] at hneg
      have hnone : r.shownOf c (List.range (k + 1)) = [] := by
        refine List.eq_nil_iff_forall_not_mem.mpr fun j hj => ?_
        obtain ⟨hjk, hshown⟩ := Region.mem_shownOf.mp hj
        rw [List.mem_range] at hjk
        obtain ⟨htopj, -⟩ := Region.top_of_shown (by omega) hshown
        rw [Region.top] at htopj
        omega
      rw [hnone, Region.startPage, Region.bandPage, if_pos (by omega), List.length_nil]
      omega

/-- Started at the region's page, the register follows the pages of its shown bands (R76, R82, R83). -/
theorem Region.pagesFollow (c : Config) (r : Region) : r.PagesFollow c (List.range r.bandCount) r.startPage := by
  intro pre k post hsplit hk
  obtain ⟨rfl, hlt⟩ := eq_range_of_range_eq_append hsplit
  exact Region.startPage_add_shown_before hlt hk

end

section

variable (c : Config) (r : Region)
variable {source : Nat → Option Byte} {len : Nat} {bytes : Nat → Byte} (hsrc : ReadsAs source len bytes)
include hsrc

/-- Everything the band loop can do: send the stream of each shown band, or stop in the first that runs past the source (R72, R81). -/
theorem bandRun_cases (ks : List Nat) (page : Nat) (hpages : r.PagesFollow c ks page) :
    ((∀ k ∈ ks, r.BandWithin c len k) ∧
      bandRun c r source ks page = { events := (r.shownOf c ks).flatMap (r.bandStream c bytes), stop := none }) ∨
    ∃ pre k post tx, ks = pre ++ k :: post ∧ r.skipped c k = false ∧ r.FirstOverrunOfBand c len k tx ∧
      (∀ k' ∈ pre, r.BandWithin c len k') ∧
      bandRun c r source ks page =
        { events := (r.shownOf c pre).flatMap (r.bandStream c bytes) ++ cursor c r.startCol (r.bandPage k) ++
            r.columnData c bytes k (List.range tx),
          stop := some (r.overrunAt k tx) } := by
  induction ks generalizing page with
  | nil => exact .inl ⟨by simp, rfl⟩
  | cons k ks ih =>
    cases hk : r.skipped c k with
    | true =>
      have hwithin : r.BandWithin c len k := fun hshown => absurd (hk.symm.trans hshown) (by decide)
      rw [bandRun_skipped c r source hk, Region.shownOf_skipped hk]
      obtain ⟨htail, hrun⟩ | ⟨pre, k', post, tx, rfl, hk', hfirst, hbefore, hrun⟩ := ih page (hpages.of_skipped hk)
      · exact .inl ⟨List.forall_mem_cons.mpr ⟨hwithin, htail⟩, hrun⟩
      · exact .inr ⟨k :: pre, k', post, tx, rfl, hk', hfirst, List.forall_mem_cons.mpr ⟨hwithin, hbefore⟩,
          by rw [hrun, Region.shownOf_skipped hk]⟩
    | false =>
      obtain ⟨rfl, hnext⟩ := hpages.of_shown hk
      obtain ⟨hwithin, hband⟩ | ⟨tx, hfirst, hband⟩ := columnRun_band_cases c r hsrc k (r.bandPage k)
      · rw [bandRun_shown c r source hk (congrArg RegionRun.stop hband), hband, Region.shownOf_shown hk]
        obtain ⟨htail, hrun⟩ | ⟨pre, k', post, tx, rfl, hk', hfirst, hbefore, hrun⟩ := ih _ hnext
        · refine .inl ⟨List.forall_mem_cons.mpr ⟨hwithin, htail⟩, ?_⟩
          rw [hrun, List.flatMap_cons, Region.bandStream_eq]
        · refine .inr ⟨k :: pre, k', post, tx, rfl, hk', hfirst, List.forall_mem_cons.mpr ⟨hwithin, hbefore⟩, ?_⟩
          rw [hrun, Region.shownOf_shown hk, List.flatMap_cons, Region.bandStream_eq]
          simp only [List.append_assoc]
      · refine .inr ⟨[], k, ks, tx, rfl, hk, hfirst, by simp, ?_⟩
        rw [bandRun_stopped c r source hk (congrArg RegionRun.stop hband), hband]
        rfl

/-- Everything REGION can do: send the stream of its region, or stop at its first overrun (R71, R81). -/
theorem regionRun_cases :
    (r.NoOverrun c len ∧ regionRun c r source = { events := r.stream c bytes, stop := none }) ∨
    ∃ k tx, r.FirstOverrun c len k tx ∧
      regionRun c r source = { events := r.streamUntil c bytes k tx, stop := some (r.overrunAt k tx) } := by
  obtain ⟨hwithin, hrun⟩ | ⟨pre, k, post, tx, hsplit, hk, hfirst, hbefore, hrun⟩ :=
    bandRun_cases c r hsrc (List.range r.bandCount) r.startPage (r.pagesFollow c)
  · refine .inl ⟨fun k hk => hwithin k (List.mem_range.mpr hk), ?_⟩
    simp only [regionRun, hrun]
    rfl
  · obtain ⟨rfl, hlt⟩ := eq_range_of_range_eq_append hsplit
    refine .inr ⟨k, tx, ⟨⟨hlt, hk⟩, hfirst, fun k' hk' => hbefore k' (List.mem_range.mpr hk')⟩, ?_⟩
    simp only [regionRun, hrun, Region.streamUntil, Region.filter_lt_shownBands hlt.le]
    rfl

end

/-! The region operations. -/

section

variable {i : Instr} {s : State} {r : Region} {len : Nat} {bytes : Nat → Byte}

/-- A region operation is REGION over a source that reads as the operation's bytes (R33, R34, R90, R92, R94). -/
theorem RegionOperation.exec_eq (hop : RegionOperation i s r len bytes) :
    ∃ source, ReadsAs source len bytes ∧ exec i s = s.runRegion r source := by
  obtain ⟨rfl, rfl, rfl⟩ | ⟨rfl, rfl, rfl, rfl⟩ | ⟨rfl, rfl, rfl⟩ := hop
  · exact ⟨s.fbSource, fun _ => rfl, exec_sync ..⟩
  · exact ⟨s.fbSource, fun _ => rfl, exec_update s⟩
  · refine ⟨s.srcSource, fun off => ?_, exec_draw ..⟩
    by_cases hoff : off < s.src.length
    · simp [State.srcSource, hoff]
    · simp [State.srcSource, hoff]

/-- Everything a region operation can answer: the stream of its region sent, or the fault at its first overrun (R71, R81). -/
theorem regionOperation_cases (hop : RegionOperation i s r len bytes) :
    (r.NoOverrun s.cfg len ∧ exec i s = .next (s.endRegion (r.stream s.cfg bytes))) ∨
    ∃ k tx, r.FirstOverrun s.cfg len k tx ∧
      exec i s = .fault (.sourceOverrun (r.w * k + tx)
        (s.overrun (r.streamUntil s.cfg bytes k tx) ((r.overrunAt k tx).sequencer r) (r.w * k + tx))) := by
  obtain ⟨source, hsrc, hexec⟩ := hop.exec_eq
  obtain ⟨hno, hrun⟩ | ⟨k, tx, hfirst, hrun⟩ := regionRun_cases s.cfg r hsrc
  · refine .inl ⟨hno, ?_⟩
    rw [hexec, State.runRegion_next (congrArg RegionRun.stop hrun), hrun]
  · refine .inr ⟨k, tx, hfirst, ?_⟩
    rw [hexec, State.runRegion_fault (congrArg RegionRun.stop hrun), hrun]
    rfl

/-- The first overrun of a region is an overrun. -/
theorem Region.FirstOverrun.not_noOverrun {c : Config} {k tx : Nat} (h : r.FirstOverrun c len k tx) : ¬r.NoOverrun c len := by
  obtain ⟨⟨hk, hs⟩, ⟨⟨htx, hv, hlen⟩, -⟩, -⟩ := h
  exact fun hno => absurd (hno k hk hs tx htx hv) (by omega)

/-- A region operation that meets no overrun completes (R71). -/
theorem RegionOperation.exec_next (hop : RegionOperation i s r len bytes) (hno : r.NoOverrun s.cfg len) :
    exec i s = .next (s.endRegion (r.stream s.cfg bytes)) := by
  obtain ⟨-, h⟩ | ⟨_, _, hfirst, -⟩ := regionOperation_cases hop
  · exact h
  · exact absurd hno hfirst.not_noOverrun

/-- A region operation that completes has sent the stream of its region (R71). -/
theorem RegionOperation.eq_endRegion (hop : RegionOperation i s r len bytes) {t : State} (h : exec i s = .next t) :
    t = s.endRegion (r.stream s.cfg bytes) := by
  obtain ⟨-, hnext⟩ | ⟨_, _, -, hfault⟩ := regionOperation_cases hop
  · cases hnext.symm.trans h
    rfl
  · cases hfault.symm.trans h

end

end Sys2Proof.Machine
end

section
/-!
SUPPORT. What a region operation sends and leaves, derived from `regionOperation_cases` (41_region_sync.md R73, R81, R85 to R87, R93): the
framing of its stream, its length, and the regions whose stream has a simpler form.
-/
namespace Sys2Proof.Machine

/-! Framing (R73). -/

/-- Events that do not frame leave `CS` as it is (R24). -/
theorem csAfter_of_no_framing {evs : List Event} (h : ∀ e ∈ evs, e.framing = false) (l : Bool) : csAfter evs l = l := by
  induction evs with
  | nil => rfl
  | cons e evs ih =>
    obtain ⟨he, hevs⟩ := List.forall_mem_cons.mp h
    cases e with
    | csAssert => cases he
    | csDeassert => cases he
    | cmd b => exact ih hevs
    | data b => exact ih hevs

section

variable (c : Config) (r : Region) (bytes : Nat → Byte)

theorem no_framing_cursor (col : Byte) (page : Nat) : ∀ e ∈ cursor c col page, e.framing = false := by
  simp [cursor, Event.framing]

theorem Region.no_framing_columnData (k : Nat) (txs : List Nat) : ∀ e ∈ r.columnData c bytes k txs, e.framing = false := by
  simp only [Region.columnData, List.forall_mem_map]
  exact fun _ _ => rfl

/-- The bands of a region, whole, send no framing event (R73, R78). -/
theorem Region.no_framing_bands (ks : List Nat) : ∀ e ∈ ks.flatMap (r.bandStream c bytes), e.framing = false := by
  intro e he
  obtain ⟨k, -, hk⟩ := List.mem_flatMap.mp he
  rw [Region.bandStream_eq, List.mem_append] at hk
  exact hk.elim (no_framing_cursor c _ _ e) (r.no_framing_columnData c bytes k _ e)

/-- What a region has sent when it stops, after its `CS_ASSERT`, has no framing event (R81). -/
theorem Region.no_framing_until (k tx : Nat) :
    ∀ e ∈ ((r.shownBands c).filter (· < k)).flatMap (r.bandStream c bytes) ++ cursor c r.startCol (r.bandPage k) ++
      r.columnData c bytes k (List.range tx), e.framing = false := by
  intro e he
  rw [List.mem_append, List.mem_append] at he
  exact he.elim (·.elim (r.no_framing_bands c bytes _ e) (no_framing_cursor c _ _ e)) (r.no_framing_columnData c bytes k _ e)

/-- A region's stream leaves `CS` deasserted (R73). -/
theorem Region.csAfter_stream (l : Bool) : csAfter (r.stream c bytes) l = false := by
  rw [Region.stream, csAfter_cons, csAfter_append]
  rfl

/-- A region that stopped leaves `CS` asserted (R81). -/
theorem Region.csAfter_streamUntil (k tx : Nat) (l : Bool) : csAfter (r.streamUntil c bytes k tx) l = true :=
  csAfter_of_no_framing (r.no_framing_until c bytes k tx) true

end

/-- Settles O20: the operation ends with the region's stream sent, which leaves `CS` deasserted and `CD` at the data level. -/
theorem regionOperationSendsItsStream : Obligations.RegionOperationSendsItsStream := by
  intro i s r len bytes hop hno
  refine ⟨_, hop.exec_next hno, ?_, fun hcd => ?_⟩
  · rw [← r.csAfter_stream s.cfg bytes s.csAsserted]
    rfl
  · rw [State.endRegion_cdLevel, hcd, cdAfter_dataLevel]

/-- Settles O21: of the two answers of a region operation it gives the fault, at the region's first overrun. -/
theorem regionOperationFaultsAtItsFirstOverrun : Obligations.RegionOperationFaultsAtItsFirstOverrun := by
  intro i s r len bytes hop hover
  obtain ⟨hno, -⟩ | ⟨k, tx, ⟨⟨hk, hs⟩, ⟨⟨htx, hv, hlen⟩, hcolumns⟩, hbands⟩, hfault⟩ := regionOperation_cases hop
  · exact absurd hno hover
  refine ⟨k, tx, _, hfault, ⟨hk, hs, htx, hv, hlen⟩, ?_, ?_⟩
  · rintro k' tx' - hs' htx' hv' (hlt | ⟨rfl, hlt⟩)
    · exact hbands k' hlt hs' tx' htx' hv'
    · exact hcolumns tx' hlt hv'
  · rw [← r.csAfter_streamUntil s.cfg bytes k tx s.csAsserted]
    rfl

/-- Settles O23: between the two framing events, or after the first where it faults, are cursors and data only. -/
theorem regionOperationIsOneBurst : Obligations.RegionOperationIsOneBurst := by
  intro i s r len bytes hop
  constructor
  · intro t ht
    rw [hop.eq_endRegion ht]
    refine ⟨_, rfl, r.no_framing_bands s.cfg bytes _, fun hskip => ?_⟩
    have hnone : r.shownBands s.cfg = [] := by
      simpa [Region.shownBands] using hskip
    rw [hnone, List.flatMap_nil]
  · intro off left hleft
    obtain ⟨-, hnext⟩ | ⟨k, tx, -, hfault⟩ := regionOperation_cases hop
    · cases hnext.symm.trans hleft
    · cases hfault.symm.trans hleft
      exact ⟨_, rfl, r.no_framing_until s.cfg bytes k tx⟩

section

variable {c : Config} {r : Region} {len : Nat}

/-! Lengths (R86). -/

theorem length_cursor (c : Config) (col : Byte) (page : Nat) : (cursor c col page).length = 3 := rfl

/-- A region's stream has two framing events and, per shown band, the cursor and a byte per column on the panel (R86). -/
theorem Region.length_stream (c : Config) (r : Region) (bytes : Nat → Byte) :
    (r.stream c bytes).length = 2 + (r.shownBands c).length * (3 + r.columnCount c) := by
  have hband (k : Nat) : (r.bandStream c bytes k).length = 3 + r.columnCount c := by
    rw [Region.bandStream, List.length_append, length_cursor, List.length_map, List.length_range]
  rw [Region.stream, List.length_cons, List.length_append, List.length_flatMap, List.map_congr_left fun k _ => hband k,
    List.map_const', List.sum_replicate, List.length_singleton, smul_eq_mul]
  omega

/-- A source that holds every band whole is not overrun (R86). -/
theorem Region.noOverrun_of_length (h : r.w * ((r.h + 7) / 8) ≤ len) : r.NoOverrun c len := by
  intro k hk _ tx htx _
  calc r.w * k + tx < r.w * (k + 1) := by rw [Nat.mul_succ]; omega
    _ ≤ r.w * ((r.h + 7) / 8) := Nat.mul_le_mul_left _ hk
    _ ≤ len := h

/-- A region of which no column is on the panel reads nothing (R87). -/
theorem Region.noOverrun_of_clipped (h : r.w = 0 ∨ (c.W : Int) ≤ r.x ∨ r.x + (r.w : Int) ≤ 0) : r.NoOverrun c len :=
  fun _ _ _ _ htx hv => absurd hv (r.not_visible_of_clipped c h htx)

/-- A region of which no band is shown reads nothing (R87). -/
theorem Region.noOverrun_of_no_bands (h : r.shownBands c = []) : r.NoOverrun c len := by
  intro k hk hs
  have hmem : k ∈ r.shownBands c := Region.mem_shownOf.mpr ⟨List.mem_range.mpr hk, hs⟩
  rw [h] at hmem
  cases hmem

/-- No band of a region without rows, or of one below or above the panel, is shown (R87). -/
theorem Region.shownBands_of_clipped (h : r.h = 0 ∨ (c.H : Int) ≤ r.y ∨ r.y + (r.h : Int) ≤ 0) : r.shownBands c = [] := by
  refine List.eq_nil_iff_forall_not_mem.mpr fun k hk => ?_
  obtain ⟨hlt, hs⟩ := Region.mem_shownOf.mp hk
  rw [List.mem_range] at hlt
  obtain ⟨htop, hH⟩ := Region.top_of_shown hlt hs
  rw [Region.top] at htop hH
  rw [Region.bandCount] at hlt
  omega

/-- A band of which no column is on the panel sends its cursor alone (R87). -/
theorem Region.bandStream_of_clipped (h : r.w = 0 ∨ (c.W : Int) ≤ r.x ∨ r.x + (r.w : Int) ≤ 0) (bytes : Nat → Byte) (k : Nat) :
    r.bandStream c bytes k = cursor c r.startCol (r.bandPage k) := by
  rw [Region.bandStream, r.columnCount_of_clipped c h]
  rfl

end

/-- Settles O25: a completed operation has sent its region's stream, and a source that holds every band is not overrun. -/
theorem eventCountOfARegionOperation : Obligations.EventCountOfARegionOperation := by
  intro i s r len bytes hop
  constructor
  · intro t ht
    rw [hop.eq_endRegion ht, State.endRegion_out, List.length_append, Region.length_stream, Nat.add_assoc]
  · exact fun hlen => ⟨_, hop.exec_next (Region.noOverrun_of_length hlen)⟩

/-- Settles O27: such a region shows no band, or bands without columns, and so reads nothing. -/
theorem clippedRegionsReadNothing : Obligations.ClippedRegionsReadNothing := by
  intro i s r len bytes hop
  constructor
  · intro hclip
    have hnone := Region.shownBands_of_clipped hclip
    refine ⟨_, hop.exec_next (Region.noOverrun_of_no_bands hnone), ?_⟩
    rw [State.endRegion_out, Region.stream, hnone]
    rfl
  · intro hclip
    refine ⟨_, hop.exec_next (Region.noOverrun_of_clipped hclip), ?_⟩
    rw [State.endRegion_out, Region.stream, List.flatMap_congr fun k _ => Region.bandStream_of_clipped hclip bytes k]
    rfl

end Sys2Proof.Machine
end

section
/-!
SUPPORT. Regions inside the panel, UPDATE among them (41_region_sync.md R85, R93), and that REGION reads its source only where it sends a
byte (R86).
-/
namespace Sys2Proof.Machine

section

variable {c : Config} {r : Region}

/-- No band of a region inside the panel is skipped, under either rule (R85). -/
theorem Region.shown_of_inside (hy : 0 ≤ r.y) (hh : r.y + (r.h : Int) ≤ c.H) {k : Nat} (hk : k < r.bandCount) :
    r.skipped c k = false := by
  refine Region.shown_of_rows hk ?_ ?_
  · rw [Region.top]
    omega
  · rw [Region.bottom]
    omega

/-- No column of a region inside the panel is clipped (R85). -/
theorem Region.visible_of_inside (hx : 0 ≤ r.x) (hw : r.x + (r.w : Int) ≤ c.W) {tx : Nat} (htx : tx < r.w) :
    r.visible c tx = true := by
  rw [Region.visible_iff]
  omega

/-- Every column of a region inside the panel is on it (R85). -/
theorem Region.columnCount_of_inside (hx : 0 ≤ r.x) (hw : r.x + (r.w : Int) ≤ c.W) : r.columnCount c = r.w := by
  rw [Region.columnCount]
  omega

/-- All bands of a region inside the panel are shown (R85). -/
theorem Region.shownBands_of_inside (hy : 0 ≤ r.y) (hh : r.y + (r.h : Int) ≤ c.H) : r.shownBands c = List.range r.bandCount :=
  List.filter_eq_self.mpr fun _ hk => by rw [Region.shown_of_inside hy hh (List.mem_range.mp hk), Bool.not_false]

/-- The pages of a region that begins on the panel count up from that of its top row (R83, R85). -/
theorem Region.bandPage_of_inside (hy : 0 ≤ r.y) (k : Nat) : r.bandPage k = (r.y / 8).toNat + k := by
  rw [Region.bandPage]
  omega

/-- A band of a region inside the panel sends its cursor at column `x` and every byte (R85). -/
theorem Region.bandStream_of_inside (hx : 0 ≤ r.x) (hw : r.x + (r.w : Int) ≤ c.W) (hy : 0 ≤ r.y) (bytes : Nat → Byte) (k : Nat) :
    r.bandStream c bytes k = cursor c (BitVec.ofNat 8 r.x.toNat) ((r.y / 8).toNat + k) ++
      (List.range r.w).map fun tx => .data (bytes (r.w * k + tx)) := by
  have hall : (List.range r.w).filter (r.visible c) = List.range r.w :=
    List.filter_eq_self.mpr fun _ htx => Region.visible_of_inside hx hw (List.mem_range.mp htx)
  rw [Region.bandStream_eq, Region.columnData, hall, Region.bandPage_of_inside hy, Region.startCol, max_eq_left hx]

end

/-- Settles O24: with every band shown and every column visible the region's stream has the form of R85. -/
theorem regionInsideThePanelSendsEveryByte : Obligations.RegionInsideThePanelSendsEveryByte := by
  intro i s r len bytes hop _ hx hw hy hh hlen
  refine ⟨fun k hk => Region.shown_of_inside hy hh hk, fun tx htx => Region.visible_of_inside hx hw htx, _,
    hop.exec_next (Region.noOverrun_of_length hlen), ?_⟩
  rw [State.endRegion_out, Region.stream, Region.shownBands_of_inside hy hh,
    List.flatMap_congr fun k _ => Region.bandStream_of_inside hx hw hy bytes k]
  rfl

/-! UPDATE (R92, R93). -/

/-- UPDATE is REGION over the whole panel, its source the Frame Buffer (R92). -/
theorem regionOperation_update (s : State) :
    RegionOperation .update s (Region.wholePanel s.cfg) s.cfg.bufLen s.fb.read :=
  .inr (.inl ⟨rfl, rfl, rfl, rfl⟩)

/-- The pages of the whole panel count up from 0 (R93). -/
theorem bandPage_wholePanel (c : Config) (p : Nat) : (Region.wholePanel c).bandPage p = p :=
  (Region.bandPage_of_inside le_rfl p).trans (Nat.zero_add p)

/-- The cursor of a page below 16 at column 0, written out (R60, R93). -/
theorem cursor_column_zero (c : Config) {page : Nat} (hp : page < 16) :
    cursor c 0#8 page = [.cmd (c.cmdColLo ||| 0#8), .cmd (c.cmdColHi ||| 0#8), .cmd (c.cmdPage ||| BitVec.ofNat 8 page)] := by
  rw [cursor, pageByte, setWidth_ofNat_four hp]
  rfl

section

variable {c : Config} (hl : c.Legal)
include hl

/-- On a legal panel the bands of the whole panel are its pages (R6, R93). -/
theorem bandCount_wholePanel : (Region.wholePanel c).bandCount = c.pageCount := by
  obtain ⟨-, ⟨-, -, hH⟩, -⟩ := hl
  show (c.H + 7) / 8 = c.H / 8
  omega

/-- All pages of a legal panel are shown by the whole panel (R6, R93). -/
theorem shownBands_wholePanel : (Region.wholePanel c).shownBands c = List.range c.pageCount := by
  rw [Region.shownBands_of_inside le_rfl (zero_add _).le, bandCount_wholePanel hl]

/-- A page of the whole panel: its cursor at column 0, written out, and its bytes (R60, R93). -/
theorem bandStream_wholePanel (bytes : Nat → Byte) {p : Nat} (hp : p < c.pageCount) :
    (Region.wholePanel c).bandStream c bytes p =
      [.cmd (c.cmdColLo ||| 0#8), .cmd (c.cmdColHi ||| 0#8), .cmd (c.cmdPage ||| BitVec.ofNat 8 p)] ++
        (List.range c.W).map fun col => .data (bytes (c.W * p + col)) := by
  rw [Region.bandStream_of_inside le_rfl (zero_add _).le le_rfl, ← Region.bandPage_of_inside le_rfl, bandPage_wholePanel,
    ← cursor_column_zero c (hp.trans_le (pageCount_le_of_legal hl))]
  rfl

/-- The whole panel never runs past the Frame Buffer (R93). -/
theorem noOverrun_wholePanel : (Region.wholePanel c).NoOverrun c c.bufLen := by
  exact Region.noOverrun_of_length (Nat.mul_le_mul_left _ (bandCount_wholePanel hl).le)

end

/-- Settles O28: the whole panel is a region inside the panel, and its last offset is the last of the buffer. -/
theorem updateSendsEveryPage : Obligations.UpdateSendsEveryPage := by
  intro s hl
  refine ⟨_, (regionOperation_update s).exec_next (noOverrun_wholePanel hl), ?_, ?_⟩
  · rw [State.endRegion_out, Region.stream, shownBands_wholePanel hl,
      List.flatMap_congr fun p hp => bandStream_wholePanel hl s.fb.read (List.mem_range.mp hp)]
    rfl
  · rw [State.endRegion_out, List.length_append, Region.length_stream, shownBands_wholePanel hl, List.length_range,
      Region.columnCount_of_inside le_rfl (zero_add _).le]
    rfl

/-! What REGION reads (R86). -/

section

variable {c : Config} {r : Region} {source source' : Nat → Option Byte}

/-- The column loop reads its source only at the columns on the panel (R79). -/
theorem columnRun_congr {k page : Nat} {txs : List Nat}
    (h : ∀ tx ∈ txs, r.visible c tx = true → source (r.offset k tx) = source' (r.offset k tx)) :
    columnRun c r source k page txs = columnRun c r source' k page txs := by
  induction txs with
  | nil => rfl
  | cons tx txs ih =>
    obtain ⟨hhead, htail⟩ := List.forall_mem_cons.mp h
    have hrun := ih htail
    cases hv : r.visible c tx with
    | false => rw [columnRun_clipped c r _ hv, columnRun_clipped c r _ hv, hrun]
    | true =>
      have hsame := hhead hv
      cases hb : source (r.offset k tx) with
      | none => rw [columnRun_stopped c r _ hv hb, columnRun_stopped c r _ hv (hsame ▸ hb)]
      | some b => rw [columnRun_sent c r _ hv hb, columnRun_sent c r _ hv (hsame ▸ hb), hrun]

/-- The band loop reads its source only in the bands shown (R77). -/
theorem bandRun_congr {ks : List Nat} {page : Nat}
    (h : ∀ k ∈ ks, r.skipped c k = false → ∀ tx, tx < r.w → r.visible c tx = true →
      source (r.offset k tx) = source' (r.offset k tx)) :
    bandRun c r source ks page = bandRun c r source' ks page := by
  induction ks generalizing page with
  | nil => rfl
  | cons k ks ih =>
    obtain ⟨hhead, htail⟩ := List.forall_mem_cons.mp h
    cases hk : r.skipped c k with
    | true => rw [bandRun_skipped c r _ hk, bandRun_skipped c r _ hk, ih htail]
    | false =>
      have hband : columnRun c r source k page (List.range r.w) = columnRun c r source' k page (List.range r.w) :=
        columnRun_congr fun tx htx => hhead hk tx (List.mem_range.mp htx)
      cases hs : (columnRun c r source k page (List.range r.w)).stop with
      | some o => rw [bandRun_stopped c r _ hk hs, bandRun_stopped c r _ hk (hband ▸ hs), hband]
      | none => rw [bandRun_shown c r _ hk hs, bandRun_shown c r _ hk (hband ▸ hs), hband, ih htail]

/-- REGION reads its source only at the shown columns of the shown bands (R86). -/
theorem regionRun_congr
    (h : ∀ k tx, k < r.bandCount → r.skipped c k = false → tx < r.w → r.visible c tx = true →
      source (r.w * k + tx) = source' (r.w * k + tx)) :
    regionRun c r source = regionRun c r source' := by
  have hbands : bandRun c r source (List.range r.bandCount) r.startPage = bandRun c r source' (List.range r.bandCount) r.startPage :=
    bandRun_congr fun k hk hs tx => h k tx (List.mem_range.mp hk) hs
  rw [regionRun, hbands]
  rfl

end

/-- Settles O26: REGION does the same over both arrays. -/
theorem drawDependsOnlyOnTheBytesItShows : Obligations.DrawDependsOnlyOnTheBytesItShows := by
  intro s s' r hcfg hsrc
  have hrun : regionRun s.cfg r s.srcSource = regionRun s'.cfg r s'.srcSource := by
    rw [← hcfg]
    exact regionRun_congr hsrc
  refine ⟨(regionRun s.cfg r s.srcSource).events, ?_⟩
  obtain ⟨hstop, hexec⟩ | ⟨o, hstop, hexec⟩ := s.runRegion_cases r s.srcSource
  · refine .inl ⟨_, _, hexec, State.runRegion_next (hrun ▸ hstop), rfl, ?_⟩
    rw [hrun, State.endRegion_out]
  · refine .inr ⟨o.off, _, _, hexec, State.runRegion_fault (hrun ▸ hstop), rfl, ?_⟩
    rw [hrun, State.overrun_out]

end Sys2Proof.Machine
end

section
/-!
SUPPORT. What the panel shows (41_region_sync.md R96 to R98): the reference observer holds the bytes of a region where the region covers
its display memory, and the rest of it is unchanged.
-/
namespace Sys2Proof.Machine

/-- A byte of the panel has an address of its own in the display memory. -/
theorem address_eq_iff {W p q a b : Nat} (ha : a < W) (hb : b < W) : W * p + a = W * q + b ↔ p = q ∧ a = b := by
  constructor
  · intro h
    have hcol : a = b := by simpa [Nat.mul_add_mod, Nat.mod_eq_of_lt, ha, hb] using congrArg (· % W) h
    exact ⟨Nat.eq_of_mul_eq_mul_left (by omega : 0 < W) (by omega), hcol⟩
  · rintro ⟨rfl, rfl⟩
    rfl

section

variable {c : Config} {o : Observer}

/-- A byte written at the cursor is read there, and every other byte of the panel is unchanged (R96). -/
theorem Observer.pixelByte_store (b : Byte) (hcc : o.cc.toNat < c.W) (p : Nat) {col : Nat} (hcol : col < c.W) :
    (o.store c b).pixelByte c p col = if p = o.cp.toNat ∧ col = o.cc.toNat then b else o.pixelByte c p col := by
  rw [Observer.pixelByte, Observer.store_dram, Memory.read_write]
  simp only [address_eq_iff hcol hcc]
  rfl

/-- A data byte at a cursor on the panel is accepted and written there, and the cursor advances, unless it stood at column 255 (R96). -/
theorem Observer.watch_datum (b : Byte) (hcc : o.cc.toNat < c.W) (hp : o.cp.toNat < c.pageCount) :
    ∃ o', o.watch c [.data b] = some o' ∧ o'.cp = o.cp ∧ (o.cc.toNat < 255 → o'.cc.toNat = o.cc.toNat + 1) ∧
      ∀ p col, col < c.W →
        o'.pixelByte c p col = if p = o.cp.toNat ∧ col = o.cc.toNat then b else o.pixelByte c p col := by
  refine ⟨{ o.store c b with cc := (o.store c b).nextColumn }, ?_, rfl, fun hlt => ?_, fun p col hcol =>
    Observer.pixelByte_store b hcc p hcol⟩
  · rw [Observer.watch_cons, Observer.see_data, o.dataByte_onPanel c b hcc hp]
    rfl
  · have hne : (o.store c b).cc ≠ 255#8 := fun h => absurd (congrArg BitVec.toNat h) hlt.ne
    rw [Observer.nextColumn_of_ne _ hne, Observer.store_cc, BitVec.toNat_add_of_lt]
    · rfl
    · show o.cc.toNat + 1 < 256
      omega

/-- A run of data that ends on the panel is accepted and written from the cursor on (R96). -/
theorem Observer.watch_data (hW : c.W ≤ 256) (hp : o.cp.toNat < c.pageCount) (f : Nat → Byte) (n : Nat)
    (hn : 0 < n → o.cc.toNat + n ≤ c.W) :
    ∃ o', o.watch c ((List.range n).map fun j => .data (f j)) = some o' ∧ o'.cp = o.cp ∧
      (o.cc.toNat + n < 256 → o'.cc.toNat = o.cc.toNat + n) ∧
      ∀ p col, col < c.W → o'.pixelByte c p col =
        if p = o.cp.toNat ∧ o.cc.toNat ≤ col ∧ col < o.cc.toNat + n then f (col - o.cc.toNat) else o.pixelByte c p col := by
  induction n with
  | zero =>
    refine ⟨o, rfl, rfl, fun _ => rfl, fun p col _ => ?_⟩
    rw [if_neg (by omega)]
  | succ n ih =>
    have hend := hn n.succ_pos
    obtain ⟨o', hwatch, hcp, hcc, hbytes⟩ := ih fun _ => by omega
    have hcc' : o'.cc.toNat = o.cc.toNat + n := hcc (by omega)
    obtain ⟨o'', hwatch', hcp', hcc'', hbytes'⟩ := o'.watch_datum (f n) (by omega : o'.cc.toNat < c.W) (by rwa [hcp])
    refine ⟨o'', ?_, hcp'.trans hcp, fun hlt => by omega, fun p col hcol => ?_⟩
    · rw [List.range_succ, List.map_append, Observer.watch_append, hwatch]
      exact hwatch'
    · rw [hbytes' p col hcol, hbytes p col hcol, hcp, hcc']
      by_cases hlast : p = o.cp.toNat ∧ col = o.cc.toNat + n
      · rw [if_pos hlast, if_pos (by omega), hlast.2, Nat.add_sub_cancel_left]
      · rw [if_neg hlast]
        by_cases hin : p = o.cp.toNat ∧ o.cc.toNat ≤ col ∧ col < o.cc.toNat + n
        · rw [if_pos hin, if_pos (by omega)]
        · rw [if_neg hin, if_neg (by omega)]

end

section

variable {c : Config} {r : Region}

/-- The columns of a shown band cover the run from display column `max(x, 0)` on its page (R83, R84). -/
theorem Region.covers_iff {k : Nat} (hk : k < r.bandCount) (hs : r.skipped c k = false) (tx p col : Nat) :
    r.Covers c k tx p col ↔
      p = r.bandPage k ∧ ∃ j, j < r.columnCount c ∧ tx = r.firstColumn + j ∧ col = (max r.x 0).toNat + j := by
  constructor
  · rintro ⟨-, ⟨htx, hv⟩, hp, hcol⟩
    obtain ⟨hfirst, hlast⟩ := (r.visible_iff_in_run c htx).mp hv
    have := r.displayColumn (tx - r.firstColumn)
    rw [Nat.add_sub_cancel' hfirst] at this
    exact ⟨hp, tx - r.firstColumn, by omega, by omega, by omega⟩
  · rintro ⟨hp, j, hj, rfl, rfl⟩
    have hle := r.firstColumn_add_columnCount_le c (by omega)
    have htx : r.firstColumn + j < r.w := by omega
    have := r.displayColumn j
    exact ⟨⟨hk, hs⟩, ⟨htx, (r.visible_iff_in_run c htx).mpr (by omega)⟩, hp, by omega⟩

/-- A byte of the panel is covered at most once (R97). -/
theorem Region.Covers.unique {k tx k' tx' p col : Nat} (h : r.Covers c k tx p col) (h' : r.Covers c k' tx' p col) :
    k = k' ∧ tx = tx' := by
  obtain ⟨⟨hk, hs⟩, -, hp, hcol⟩ := h
  obtain ⟨⟨hk', hs'⟩, -, hp', hcol'⟩ := h'
  obtain ⟨htop, -⟩ := Region.top_of_shown hk hs
  obtain ⟨htop', -⟩ := Region.top_of_shown hk' hs'
  rw [Region.top] at htop htop'
  rw [Region.bandPage] at hp hp'
  omega

/-- A covered byte is on the panel (R84). -/
theorem Region.Covers.col_lt {k tx p col : Nat} (h : r.Covers c k tx p col) : col < c.W := by
  obtain ⟨-, ⟨-, hv⟩, -, hcol⟩ := h
  rw [Region.visible_iff] at hv
  omega

/-- What the observer holds after the bands `ks` of a region, where it held `o` before: the bytes they cover, and the rest unchanged. -/
def Observer.Shows (c : Config) (r : Region) (bytes : Nat → Byte) (ks : List Nat) (o o' : Observer) : Prop :=
  (∀ k ∈ ks, ∀ tx p col, r.Covers c k tx p col → o'.pixelByte c p col = bytes (r.w * k + tx)) ∧
  ∀ p col, col < c.W → (∀ k ∈ ks, ∀ tx, ¬r.Covers c k tx p col) → o'.pixelByte c p col = o.pixelByte c p col

variable (hl : c.Legal) (hd : c.CodesDistinct) (bytes : Nat → Byte)
include hl hd

/-- A shown band is accepted, and the observer then shows it (R78, R96, R97). -/
theorem Observer.watch_bandStream (o : Observer) {k : Nat} (hk : k < r.bandCount) (hs : r.skipped c k = false) :
    ∃ o', o.watch c (r.bandStream c bytes k) = some o' ∧ Observer.Shows c r bytes [k] o o' := by
  have hpages := pageCount_le_of_legal hl
  have ⟨⟨_, hW⟩, ⟨_, _, hH⟩, _⟩ := hl
  have hpage := Region.bandPage_lt_pageCount hH hk hs
  have hcp : (BitVec.ofNat 4 (r.bandPage k)).toNat = r.bandPage k := by
    rw [BitVec.toNat_ofNat]
    omega
  have hend (h : 0 < r.columnCount c) : r.startCol.toNat + r.columnCount c ≤ c.W := by
    have := r.max_x_add_columnCount_le c h
    rw [r.startCol_toNat c hW h]
    omega
  obtain ⟨o', hwatch, -, -, hwritten⟩ :=
    Observer.watch_data (o := { o with cc := r.startCol, cp := BitVec.ofNat 4 (r.bandPage k) }) hW (by rwa [hcp])
      (fun j => bytes (r.w * k + (r.firstColumn + j))) (r.columnCount c) hend
  have hbytes : ∀ p col, col < c.W → o'.pixelByte c p col =
      if p = r.bandPage k ∧ r.startCol.toNat ≤ col ∧ col < r.startCol.toNat + r.columnCount c then
        bytes (r.w * k + (r.firstColumn + (col - r.startCol.toNat))) else o.pixelByte c p col := by
    rw [← hcp]
    exact hwritten
  refine ⟨o', ?_, ?_, ?_⟩
  · rw [Region.bandStream, Observer.watch_append, o.watch_cursor hl hd]
    exact hwatch
  · rintro k' hk' tx p col hcov
    obtain rfl := List.mem_singleton.mp hk'
    have hcol := hcov.col_lt
    obtain ⟨rfl, j, hj, rfl, rfl⟩ := (Region.covers_iff hk hs tx p col).mp hcov
    rw [hbytes _ _ hcol, r.startCol_toNat c hW (by omega), if_pos (by omega), Nat.add_sub_cancel_left]
  · intro p col hcol hnot
    rw [hbytes p col hcol, if_neg]
    rintro ⟨hp, hfrom, hto⟩
    have hstart := r.startCol_toNat c hW (by omega)
    exact hnot k (List.mem_singleton_self k) _ ((Region.covers_iff hk hs _ p col).mpr
      ⟨hp, col - r.startCol.toNat, by omega, rfl, by omega⟩)

/-- Shown bands in a row are accepted, and the observer then shows them all: no byte is covered twice (R97). -/
theorem Observer.watch_bands (o : Observer) (ks : List Nat) (hks : ∀ k ∈ ks, k < r.bandCount ∧ r.skipped c k = false) :
    ∃ o', o.watch c (ks.flatMap (r.bandStream c bytes)) = some o' ∧ Observer.Shows c r bytes ks o o' := by
  induction ks using List.reverseRecOn with
  | nil => exact ⟨o, rfl, by simp [Observer.Shows]⟩
  | append_singleton ks k ih =>
    obtain ⟨hks', hk⟩ := List.forall_mem_append.mp hks
    obtain ⟨hk, hs⟩ := hk k (List.mem_singleton_self k)
    obtain ⟨o', hwatch, hcovered, hrest⟩ := ih hks'
    obtain ⟨o'', hwatch', hcovered', hrest'⟩ := Observer.watch_bandStream hl hd bytes o' hk hs
    refine ⟨o'', ?_, ?_, ?_⟩
    · rw [List.flatMap_append, Observer.watch_append, hwatch, List.flatMap_singleton]
      exact hwatch'
    · intro k' hk' tx p col hcov
      by_cases hlast : ∃ tx', r.Covers c k tx' p col
      · obtain ⟨tx', hcov'⟩ := hlast
        obtain ⟨rfl, rfl⟩ := hcov.unique hcov'
        exact hcovered' _ (List.mem_singleton_self _) _ p col hcov
      · have hother : k' ∈ ks := by
          obtain hmem | hmem := List.mem_append.mp hk'
          · exact hmem
          · rw [List.mem_singleton.mp hmem] at hcov
            exact absurd ⟨tx, hcov⟩ hlast
        rw [hrest' p col hcov.col_lt (by simpa using hlast), hcovered k' hother tx p col hcov]
    · intro p col hcol hnot
      obtain ⟨hbefore, hlast⟩ := List.forall_mem_append.mp hnot
      rw [hrest' p col hcol hlast, hrest p col hcol hbefore]

/-- The stream of a region is accepted, and the observer then shows every band that is not skipped (R97). -/
theorem Observer.watch_stream (o : Observer) :
    ∃ o', o.watch c (r.stream c bytes) = some o' ∧
      (∀ k tx p col, r.Covers c k tx p col → o'.pixelByte c p col = bytes (r.w * k + tx)) ∧
      ∀ p col, col < c.W → (∀ k tx, ¬r.Covers c k tx p col) → o'.pixelByte c p col = o.pixelByte c p col := by
  have hshown (k : Nat) : k ∈ r.shownBands c ↔ k < r.bandCount ∧ r.skipped c k = false := by
    rw [Region.shownBands_eq, Region.mem_shownOf, List.mem_range]
  obtain ⟨o', hwatch, hcovered, hrest⟩ := Observer.watch_bands hl hd bytes o (r.shownBands c) fun k => (hshown k).mp
  refine ⟨o', ?_, fun k tx p col hcov => hcovered k ((hshown k).mpr hcov.1) tx p col hcov,
    fun p col hcol hnot => hrest p col hcol fun k _ => hnot k⟩
  rw [Region.stream, Observer.watch_cons, Observer.see_csAssert, Option.bind_some, Observer.watch_append, hwatch]
  rfl

end

/-- Settles O30: a completed operation has sent its region's stream, which the observer accepts and then shows. -/
theorem panelShowsTheRegion : Obligations.PanelShowsTheRegion := by
  intro i s t r len bytes o hop hl hd ht
  obtain ⟨o', hwatch, hcovered, hrest⟩ := Observer.watch_stream (r := r) hl hd bytes o
  exact ⟨_, o', by rw [hop.eq_endRegion ht, State.endRegion_out], hwatch, hcovered, fun p col _ => hrest p col⟩

/-- The whole panel covers each byte of the panel, with the byte of the Frame Buffer at the same place (R98). -/
theorem covers_wholePanel {c : Config} (hl : c.Legal) {p col : Nat} (hp : p < c.pageCount) (hcol : col < c.W) :
    (Region.wholePanel c).Covers c p col p col := by
  have hband : p < (Region.wholePanel c).bandCount := by rwa [bandCount_wholePanel hl]
  refine ⟨⟨hband, Region.shown_of_inside le_rfl (zero_add _).le hband⟩,
    ⟨hcol, Region.visible_of_inside le_rfl (zero_add _).le hcol⟩, (bandPage_wholePanel c p).symm, (zero_add _).symm⟩

/-- Settles O31: UPDATE completes, and its region covers every byte of the panel. -/
theorem panelShowsTheBufferAfterUpdate : Obligations.PanelShowsTheBufferAfterUpdate := by
  intro s o hl hd
  have hop := regionOperation_update s
  have hexec := hop.exec_next (noOverrun_wholePanel hl)
  obtain ⟨evs, o', hout, hwatch, hcovered, -⟩ := panelShowsTheRegion _ _ _ _ _ _ o hop hl hd hexec
  exact ⟨_, evs, o', hexec, hout, hwatch, fun p col hp hcol => hcovered p col p col (covers_wholePanel hl hp hcol)⟩

end Sys2Proof.Machine
end

section
/-!
SUPPORT. Faults, refusals and their marks (60_exceptions.md, 41_region_sync.md R81): which steps stop, what a fault leaves, and that no
step takes a mark away.
-/
namespace Sys2Proof.Machine

/-! What a fault leaves (R81, R101, R107). -/

/-- A cursor leaves `CD` at the data level, wherever the line was before (R24, R78). -/
theorem cdAfter_cursor (c : Config) (col : Byte) (page : Nat) (l : Bool) : cdAfter c (cursor c col page) l = c.dataLevel := rfl

/-- A region that stopped leaves `CD` at the data level: it stops among the data of a band, whose cursor was sent (R24, R81). -/
theorem Region.cdAfter_streamUntil (c : Config) (r : Region) (bytes : Nat → Byte) (k tx : Nat) (l : Bool) :
    cdAfter c (r.streamUntil c bytes k tx) l = c.dataLevel := by
  rw [Region.streamUntil, cdAfter_cons, cdAfter_append, cdAfter_append, cdAfter_cursor, cdAfter_dataLevel]

/-- A region operation that faults is left at the first overrun of its region (R81). -/
theorem RegionOperation.eq_overrun {i : Instr} {s left : State} {r : Region} {len off : Nat} {bytes : Nat → Byte}
    (hop : RegionOperation i s r len bytes) (h : exec i s = .fault (.sourceOverrun off left)) :
    ∃ k tx, r.FirstOverrun s.cfg len k tx ∧ off = r.w * k + tx ∧
      left = s.overrun (r.streamUntil s.cfg bytes k tx) ((r.overrunAt k tx).sequencer r) off := by
  obtain ⟨-, hnext⟩ | ⟨k, tx, hfirst, hfault⟩ := regionOperation_cases hop
  · cases hnext.symm.trans h
  · cases hfault.symm.trans h
    exact ⟨k, tx, hfirst, rfl, rfl⟩

/-- Settles O22: the state left is `State.overrun` at the region's first overrun. -/
theorem faultLeavesTheBlockBusyAndMarked : Obligations.FaultLeavesTheBlockBusyAndMarked := by
  intro i s left r len off bytes hop hfault
  obtain ⟨k, tx, ⟨⟨hk, hs⟩, ⟨⟨htx, -, -⟩, -⟩, -⟩, hoff, rfl⟩ := hop.eq_overrun hfault
  exact ⟨State.overrun_phase .., State.overrun_faults .., (State.overrun_cdLevel ..).trans (r.cdAfter_streamUntil ..),
    State.overrun_fb .., State.overrun_refusals .., k, tx, hk, hs, htx, hoff, State.overrun_seq ..⟩

/-! Which steps stop (R101, R102, R104, R108). -/

/-- No operation answers the host interface's `refused`: each of the five has its meaning. -/
theorem exec_ne_refused (i : Instr) (s : State) (reason : Refusal) : exec i s ≠ .refused reason := by
  intro h
  obtain ⟨_, _, _, -, he⟩ | ⟨-, he⟩ | ⟨r, -, -, source, -, he⟩ := exec_cases i s
  · cases he.symm.trans h
  · cases he.symm.trans h
  · obtain ⟨-, hrun⟩ | ⟨_, -, hrun⟩ := s.runRegion_cases r source
    · cases (he.trans hrun).symm.trans h
    · cases (he.trans hrun).symm.trans h

/-- No step answers the host interface's `refused`: a word or a port read the block refuses is a next state (R103, R104). -/
theorem step_ne_refused (s : State) (reason : Refusal) : step s ≠ .refused reason := by
  intro h
  obtain ⟨-, hs⟩ | ⟨-, hs⟩ | ⟨_, src, rest, i, -, -, -, hs⟩ | ⟨_, _, _, _, -, -, -, hs⟩ | ⟨_, _, -, hs⟩ |
    ⟨_, _, -, -, hs⟩ | ⟨_, _, -, hs⟩ := step_cases s
  case inr.inr.inl => exact exec_ne_refused i (s.accept src rest) reason (hs.symm.trans h)
  all_goals cases hs.symm.trans h

/-- With legal parameters only a SYNC or a DRAW faults: SETPIXEL and CLEAR read no source, and UPDATE stays within its own (R93, R102). -/
theorem sync_or_draw_of_exec_fault {i : Instr} {s : State} {f : Fault} (hl : s.cfg.Legal) (h : exec i s = .fault f) :
    ∃ x y rw rh, i = .sync x y rw rh ∨ i = .draw x y rw rh := by
  cases i with
  | setpixel x y color => cases (exec_setpixel x y color s).symm.trans h
  | clear => cases (exec_clear s).symm.trans h
  | sync x y rw rh => exact ⟨x, y, rw, rh, .inl rfl⟩
  | update => cases ((regionOperation_update s).exec_next (noOverrun_wholePanel hl)).symm.trans h
  | draw x y rw rh => exact ⟨x, y, rw, rh, .inr rfl⟩

/-- Settles O35: a step that faults ran the operation of a word presented to an idle block, and that operation is a SYNC or a DRAW. -/
theorem onlySyncAndDrawCanStop : Obligations.OnlySyncAndDrawCanStop := by
  intro s hl
  refine ⟨step_ne_refused s, fun f hstep => ?_⟩
  obtain ⟨word, src, rest, i, hin, hidle, hd, he⟩ := step_fault hstep
  obtain ⟨x, y, rw, rh, rfl | rfl⟩ := sync_or_draw_of_exec_fault (s := s.accept src rest) hl he
  · exact ⟨hidle, word, src, rest, x, y, rw, rh, hin, .inl hd⟩
  · exact ⟨hidle, word, src, rest, x, y, rw, rh, hin, .inr hd⟩

/-! The marks (R103, R104, R107). -/

/-- An operation that completes keeps the marks as they are (R103, R107). -/
theorem marks_of_exec_next {i : Instr} {s t : State} (h : exec i s = .next t) :
    t.refusals = s.refusals ∧ t.faults = s.faults := by
  obtain ⟨x, y, color, -, rfl⟩ | ⟨-, rfl⟩ | ⟨_, _, _, _, -, -, rfl⟩ := exec_next_cases h
  · exact ⟨s.paintPixel_refusals x y color, s.paintPixel_faults x y color⟩
  · exact ⟨rfl, rfl⟩
  · exact ⟨State.endRegion_refusals .., State.endRegion_faults ..⟩

/-- Settles O42: of the next states a refusal appends a mark and the others keep them all; a fault appends its own. -/
theorem marksAreSticky : Obligations.MarksAreSticky := by
  intro s
  constructor
  · intro t hstep
    obtain rfl | ⟨reason, _, rfl⟩ | ⟨_, _, rfl⟩ | ⟨_, _, -, rfl⟩ | ⟨_, _, _, _, -, -, -, he⟩ := step_next_cases hstep
    · exact ⟨List.prefix_rfl, List.prefix_rfl⟩
    · exact ⟨List.prefix_append s.refusals [reason], List.prefix_rfl⟩
    · exact ⟨List.prefix_rfl, List.prefix_rfl⟩
    · exact ⟨List.prefix_rfl, List.prefix_rfl⟩
    · obtain ⟨hrefusals, hfaults⟩ := marks_of_exec_next he
      exact ⟨hrefusals ▸ List.prefix_rfl, hfaults ▸ List.prefix_rfl⟩
  · intro off left hstep
    obtain ⟨_, _, _, _, -, -, -, he⟩ := step_fault hstep
    obtain ⟨_, _, _, -, hf⟩ := exec_fault he
    cases hf
    exact ⟨State.overrun_refusals .., State.overrun_faults ..⟩

/-! Port reads out of range (R104). -/

/-- There is no dimension register past number 3 (R18, R104). -/
theorem State.dimension_of_ge (s : State) {n : Nat} (hn : 4 ≤ n) : s.dimension n = none := by
  match n, hn with
  | _ + 4, _ => rfl

/-- Settles O38: each port serves a read out of range by refusing it. -/
theorem portReadsOutOfRangeAreRefused : Obligations.PortReadsOutOfRangeAreRefused := by
  intro s n rest
  constructor
  · intro hin hn
    rw [step_readDim hin, State.serveDim, s.dimension_of_ge hn]
    rfl
  · intro hidle hin hn
    rw [step_readBuf_of_idle hidle hin, State.serveBuf, if_neg hn.not_gt]
    rfl

end Sys2Proof.Machine
end

section
/-!
SUPPORT. How much an operation can send (70_reset_and_hazards.md R129): REGION sends at most the cursor and the whole width for every band
of its region, and the operands of a word, or the panel of UPDATE, bound both.
-/
namespace Sys2Proof.Machine

section

variable (c : Config) (r : Region)

/-- A region shows no more columns than it has (R84). -/
theorem Region.columnCount_le_w : r.columnCount c ≤ r.w := by
  rw [Region.columnCount]
  omega

/-- A region shows no more bands than it has (R77). -/
theorem Region.length_shownBands_le : (r.shownBands c).length ≤ r.bandCount := by
  calc (r.shownBands c).length ≤ (List.range r.bandCount).length := List.length_filter_le ..
    _ = r.bandCount := List.length_range

/-- A stream is longest when nothing of its region is clipped: every band then sends its cursor and all its columns (R86). -/
theorem Region.length_stream_le (bytes : Nat → Byte) : (r.stream c bytes).length ≤ 2 + r.bandCount * (3 + r.w) := by
  rw [Region.length_stream]
  exact Nat.add_le_add_left
    (Nat.mul_le_mul (r.length_shownBands_le c) (Nat.add_le_add_left (r.columnCount_le_w c) 3)) 2

/-- Extents that fit their operand fields make at most 32 bands of 255 columns (R48, R129). -/
theorem Region.size_le_of_extentFits (hw : ExtentFits r.w) (hh : ExtentFits r.h) :
    r.bandCount * (3 + r.w) ≤ 32 * 3 + 8160 := by
  have hbands : r.bandCount ≤ 32 := by
    rw [Region.bandCount]
    omega
  calc r.bandCount * (3 + r.w) ≤ 32 * (3 + 255) := Nat.mul_le_mul hbands (by omega)
    _ = 32 * 3 + 8160 := rfl

end

/-- A legal panel has at most 16 pages of 256 columns, so UPDATE stays within the bound of the operations with operands (R6, R93). -/
theorem size_wholePanel_le {c : Config} (hl : c.Legal) :
    (Region.wholePanel c).bandCount * (3 + (Region.wholePanel c).w) ≤ 32 * 3 + 8160 := by
  have hbands : (Region.wholePanel c).bandCount ≤ 16 := (bandCount_wholePanel hl).trans_le (pageCount_le_of_legal hl)
  obtain ⟨⟨-, hW⟩, -⟩ := hl
  calc (Region.wholePanel c).bandCount * (3 + (Region.wholePanel c).w) ≤ 16 * (3 + 256) :=
        Nat.mul_le_mul hbands (Nat.add_le_add_left hW 3)
    _ ≤ 32 * 3 + 8160 := by decide

/-- The region of every well-formed operation has at most 32 bands of 255 columns, or as few pages as a legal panel (R129). -/
theorem RegionOperation.size_le {i : Instr} {s : State} {r : Region} {len : Nat} {bytes : Nat → Byte}
    (hop : RegionOperation i s r len bytes) (hl : s.cfg.Legal) (hwf : i.WellFormed) :
    r.bandCount * (3 + r.w) ≤ 32 * 3 + 8160 := by
  obtain ⟨rfl, -, -⟩ | ⟨-, rfl, -, -⟩ | ⟨rfl, -, -⟩ := hop
  · obtain ⟨-, -, hw, hh⟩ := wellFormed_sync_iff.mp hwf
    exact r.size_le_of_extentFits hw hh
  · exact size_wholePanel_le hl
  · obtain ⟨-, -, hw, hh⟩ := wellFormed_draw_iff.mp hwf
    exact r.size_le_of_extentFits hw hh

/-- Settles O29: SETPIXEL and CLEAR send nothing, and a completed region operation has sent the stream of its region. -/
theorem operationsSendBoundedStreams : Obligations.OperationsSendBoundedStreams := by
  intro i s t hl hwf hexec
  obtain ⟨x, y, color, -, rfl⟩ | ⟨-, rfl⟩ | ⟨r, len, bytes, -, hop, -, -⟩ := exec_next_cases hexec
  · rw [State.complete_out, State.paintPixel_out]
    omega
  · dsimp only
    omega
  · have hlen : (r.stream s.cfg bytes).length ≤ 2 + r.bandCount * (3 + r.w) := r.length_stream_le s.cfg bytes
    have hsize : r.bandCount * (3 + r.w) ≤ 32 * 3 + 8160 := hop.size_le hl hwf
    rw [hop.eq_endRegion hexec, State.endRegion_out, List.length_append]
    omega

end Sys2Proof.Machine
end
